-- ==== Sys2Proof/Word.lean ====
section
/-! DEFINITION. The word types of LEDFE: bytes of the two windows and of an encoded frame, 16-bit bus data and
WIDTH, 32-bit bus data, commands and registers (spec/10_state.md R15, spec/20_memory.md R46 to R49). -/

namespace Sys2Proof

/-- One byte: 8 columns of one row of a bitmap (R75), or one byte lane of the bus (R49). -/
abbrev Byte := BitVec 8

/-- 16 bits: WIDTH[15:0] (R25) and 16-bit bus data. -/
abbrev Half := BitVec 16

/-- 32 bits: bus data, a command word (R64) and every 32-bit register (R15). -/
abbrev Word := BitVec 32

end Sys2Proof
end

