-- ==== Sys2Proof/Config.lean ====
section
/-! DEFINITION. What is fixed for one LEDFE (spec/00_scope.md R6 to R8), and what the spec leaves free: the contents of
the frame buffer after a reset (spec/93_implementation_defined.md U1) and the interleaving of the agents with the
sink's answers (U3, U4, U5). -/

namespace Sys2Proof

/-- R6: the rows of every bitmap. -/
abbrev ROWS : Nat := 6

/-- R6: the columns of a device frame. -/
abbrev COLS : Nat := 64

/-- R7: the bytes of one row of a device frame. -/
abbrev BPR : Nat := COLS / 8

/-- R7: the bytes of an encoded device frame. -/
abbrev FRAME_BYTES : Nat := ROWS * (COLS / 8)

/-- U22: how many DELAY(RS) items the row-shift transition carries; the spec's reading is six (R85). -/
inductive RsDelays where
  | five
  | six
  deriving DecidableEq, Repr

/-- The number of row-shift delays a reading stands for. -/
def RsDelays.count : RsDelays → Nat
  | .five => 5
  | .six => 6

/-- U23: what the init-hold delay is gated on; the spec's reading is the width (R86, C3). -/
inductive InitGate where
  | width
  | steps
  deriving DecidableEq, Repr

/-- R8: the implementation parameters, with the two readings U22 and U23 that a model may take as parameters (log 3).
No step changes them. `delayUnit` and `base` stand in no rule's effect (U18, U19). -/
structure Params where
  /-- FB_MAX_COLS, the column capacity of the frame buffer. -/
  fbMaxCols : Nat
  /-- OUT_DEPTH, the capacity of the output queue in items. -/
  outDepth  : Nat
  /-- DELAY_UNIT, the duration of one delay unit in the platform's own time base. -/
  delayUnit : Nat
  /-- BASE, where the offset space sits in the host's address space. -/
  base      : Nat
  /-- U22. -/
  rsDelays  : RsDelays
  /-- U23. -/
  initGate  : InitGate
  deriving DecidableEq, Repr

/-- R8: STRIDE, the bytes of one frame-buffer row. -/
def Params.stride (p : Params) : Nat := p.fbMaxCols / 8

/-- R8: the legal values of the parameters. -/
abbrev Params.legal (p : Params) : Prop :=
  p.fbMaxCols % 8 = 0 ∧ 64 ≤ p.fbMaxCols ∧ p.fbMaxCols ≤ 65528 ∧ 1 ≤ p.outDepth

/-- The spec's own readings where it lists two: six row-shift delays (R85) and the width gate (R86). -/
abbrev Params.specReading (p : Params) : Prop :=
  p.rsDelays = .six ∧ p.initGate = .width

/-- R8, D2, D3: the spec's default values. DESIGN CHOICE for `delayUnit` and `base`, which are open (log 2). -/
def Params.default : Params :=
  { fbMaxCols := 4096, outDepth := 1, delayUnit := 1, base := 0, rsDelays := .six, initGate := .width }

/-- One turn of the interleaving of R5: which agent moves next, with the sink's answer (R43), or the platform's
reset input (R124). -/
inductive Turn where
  | host
  | engine
  | sink (ok : Bool)
  | reset
  deriving DecidableEq, Repr, Inhabited

/-- U3, U4, U5: the free schedule. The n-th turn is any turn: nothing constrains it (logs 6 and 7). -/
opaque Config.turn : Nat → Turn

/-- U1: the byte at a block offset of the FB window that no host write has set since the given reset (log 4). -/
opaque Config.fbUnknown : Nat → Nat → Byte

end Sys2Proof
end

