-- ==== Sys2Proof/Syntax.lean ====
section
/-! DEFINITION. The commands of LEDFE-CMD v1 (spec/30_encoding.md R65), the host's bus accesses (spec/20_memory.md R44),
and the host-program notation of R73 and R74. -/

namespace Sys2Proof

/-- R65: one constructor per row of the opcode table. T and H exist for ANIMATE alone (R66). -/
inductive Instr where
  | nop
  | encode
  | animate (t h : Bool)
  | lastClear
  | lastSet
  | lastBlank
  deriving DecidableEq, Repr

/-- What the host does in its turn. `read` and `write` are one bus access of `n` bytes at a block offset
(MemRead and MemWrite of R12); `wait` is the loop WAIT of R74, which reads STATUS once in each turn. -/
inductive HostOp where
  | read  (off n : Nat)
  | write (off n : Nat) (v : Word)
  | wait
  deriving DecidableEq, Repr

/-- R73 and R74: one line of a host program. -/
inductive Line where
  | wr       (off : Nat) (v : Word)
  | wr16     (off : Nat) (v : Half)
  | wr8      (off : Nat) (v : Byte)
  | rd       (off : Nat)
  | cmd      (i : Instr)
  | wait
  | clrerr
  | loadrow  (r : Nat) (xs : List Byte)
  | zerofb
  | loadlast (xs : List Byte)
  | run      (i : Instr)
  deriving DecidableEq, Repr

end Sys2Proof
end

