-- ==== Sys2Proof/Machine/State.lean ====
section
/-! DEFINITION. The state of LEDFE (spec/10_state.md R13): its registers, the LAST buffer, the frame buffer, the output
queue and the engine, with the model's own fields for the agents outside the block, and the state after reset. -/

namespace Sys2Proof.Machine

open Sys2Proof

/-- R35: what a DELAY item is for: row-shift, column-shift, init-hold or per-string hold. -/
inductive DelayKind where
  | rs
  | cs
  | init
  | hold
  deriving DecidableEq, Repr

/-- R35: one element of the output stream. -/
inductive Item where
  | frame (bytes : List Byte)
  | delay (kind : DelayKind) (value : Word)
  deriving DecidableEq, Repr

/-- R37: ECMD, the running command. -/
inductive EngineCmd where
  | none
  | enc
  | ani
  deriving DecidableEq, Repr

/-- R102: the codes ERRCODE has a name for; codes 5 to 15 are never written. -/
inductive ErrCode where
  | none
  | invalidCharacter
  | invalidGeometry
  | sinkFailure
  | illegalCommand
  deriving DecidableEq, Repr

/-- The bus's answer to the host's latest access (R49, R50): nothing asked yet, a write completed, or the data of a
read, zero-extended to 32 bits. The model's own field: an observation of the host, not state of the block (log 10). -/
inductive BusResp where
  | idle
  | done
  | data (v : Word)
  deriving DecidableEq, Repr

/-- R32, R37: a 6 × 64 bitmap as its 48 bytes in wire format; byte 8r + b holds columns 8b … 8b+7 of row r (R54). -/
abbrev DeviceFrame := Vector Byte 48

/-- The bytes of the FB window that a host write has set since reset, keyed by block offset. An offset with no entry
has no known byte (R126). -/
abbrev Memory := List Host.Cell

/-- The canonical form of the frame buffer's bytes: offsets strictly rising. What an unlisted offset holds is unknown,
so no entry can equal it (log 4). -/
abbrev Memory.wf (m : Memory) : Prop := (m.map Prod.fst).Pairwise (· < ·)

/-- R13, and the model's own fields (from `params` on). -/
structure State where
  /-- STATUS.BUSY (R20). -/
  busy        : Bool
  /-- STATUS.ERR (R21). -/
  err         : Bool
  /-- STATUS.BWE (R24). -/
  bwe         : Bool
  /-- STATUS.LAST_VALID (R23). -/
  lastValid   : Bool
  /-- STATUS.ERRCODE (R22). -/
  errCode     : ErrCode
  /-- WIDTH[15:0] (R25). -/
  width       : Half
  /-- ERRINFO (R26). -/
  errInfo     : Word
  /-- RS_DELAY (R27). -/
  rsDelay     : Word
  /-- CS_DELAY (R28). -/
  csDelay     : Word
  /-- INIT_DELAY (R29). -/
  initDelay   : Word
  /-- HOLD_DELAY (R30). -/
  holdDelay   : Word
  /-- ITEMS (R31). -/
  items       : Word
  /-- LASTBUF (R32). -/
  lastBuf     : DeviceFrame
  /-- FB (R34): the bytes written since reset. -/
  fb          : Memory
  /-- Q (R36), head first. -/
  q           : List Item
  /-- ECMD (R37). -/
  ecmd        : EngineCmd
  /-- L (R37), the item list of the running command. -/
  cmdItems    : List Item
  /-- p (R37, R38), the index of the next item of L to enqueue. -/
  pos         : Nat
  /-- NL (R37), the value LASTBUF takes when an ANIMATE completes. -/
  pendingLast : DeviceFrame
  /-- The model's own: the parameters of R8, an input of every step (log 2). -/
  params      : Params
  /-- The model's own: which reset the unknown FB contents were drawn at (log 5). -/
  fbDraw      : Nat
  /-- The model's own: what is left of the host's program, an input (log 8). -/
  hostProg    : List HostOp
  /-- The model's own: the bus's answer to the host's latest access (log 10). -/
  busResp     : BusResp
  /-- The model's own: the delivered-item trace of R43, oldest first (log 11). -/
  delivered   : List (Item × Bool)
  /-- The model's own: turns placed from outside, taken before the free schedule's (log 6). -/
  turns       : List Turn
  /-- The model's own: how many turns of the free schedule were taken (log 6). -/
  drawn       : Nat
  deriving DecidableEq, Repr

/-- Why a step faults. -/
inductive Fault where
  /-- R50, R51: the bus's answer to a malformed host access (a width, an alignment or an offset the map does not
  admit). Raised by a host turn only. Safe: the model stops where a host might go on with its state unchanged
  (log 9). -/
  | busError
  deriving DecidableEq, Repr

/-- Why a step refuses. -/
inductive Refusal where
  /-- Raised by `exec` for a command with no meaning yet; no command is left so. Safe: the model stops. -/
  | notModelled (mnemonic : String)
  deriving DecidableEq, Repr

/-- The 6 × 64 bitmap with no lit column. -/
def blankFrame : DeviceFrame := Vector.replicate 48 0#8

/-- R40, R124: right after reset. FB lists nothing, so every byte of it is unknown (R126). The model's own fields from
`params` on stand at the values logs 2, 5, 6, 8, 10 and 11 name. -/
def State.reset : State where
  busy := false
  err := false
  bwe := false
  lastValid := false
  errCode := .none
  width := 0
  errInfo := 0
  rsDelay := 0
  csDelay := 0
  initDelay := 0
  holdDelay := 0
  items := 0
  lastBuf := blankFrame
  fb := []
  q := []
  ecmd := .none
  cmdItems := []
  pos := 0
  pendingLast := blankFrame
  params := Params.default
  fbDraw := 0
  hostProg := []
  busResp := .idle
  delivered := []
  turns := []
  drawn := 0

end Sys2Proof.Machine
end

