-- ==== Sys2Proof/Machine/Flags.lean ====
section
/-! DEFINITION. The words software reads status and parameters in: STATUS (spec/10_state.md R19) and PARAM (R17), and
the code each error carries (spec/60_exceptions.md R102). -/

namespace Sys2Proof.Machine

open Sys2Proof

/-- R102: the four bits of ERRCODE. -/
def ErrCode.bits : ErrCode → BitVec 4
  | .none => 0
  | .invalidCharacter => 1
  | .invalidGeometry => 2
  | .sinkFailure => 3
  | .illegalCommand => 4

/-- R19: STATUS as the host reads it; bits 31:8 read as 0. -/
def statusWord (s : State) : Word :=
  0#24 ++ s.errCode.bits ++ BitVec.ofBool s.lastValid ++ BitVec.ofBool s.bwe ++ BitVec.ofBool s.err ++
    BitVec.ofBool s.busy

/-- R17: PARAM, hard-wired from the parameters. -/
def paramWord (p : Params) : Word :=
  0#8 ++ BitVec.ofNat 8 (min p.outDepth 255) ++ BitVec.ofNat 16 p.fbMaxCols

/-- R16: ID, hard-wired. -/
def idWord : Word := 0x4C454446#32

end Sys2Proof.Machine
end

