-- ==== Sys2Proof/Machine/Ops.lean ====
section
/-! DEFINITION. The named operations over the state: the error entry, the abort and the recovery from an error
(spec/60_exceptions.md R111 to R115), acceptance and completion of a command (R42, R79, R90), the bytes of the frame
buffer, the packing of bitmaps into bytes (spec/40_encoder.md R75, R78), bus byte lanes (R49), reset (R124) and the
turns of the agents (R5). -/

namespace Sys2Proof.Machine

open Sys2Proof

/-! ### Errors: entry, abort, sink failure, recovery -/

/-- R111 `error_entry`, R110: the first error is recorded; while ERR = 1 nothing changes. -/
def errorEntry (code : ErrCode) (info : Word) (s : State) : State :=
  if s.err then s else { s with err := true, errCode := code, errInfo := info }

/-- R111 `abort`. LASTBUF, LAST_VALID, ITEMS and the registers stay (R112); NL is dead and keeps its bits (log 13). -/
def abort (s : State) : State :=
  { s with busy := false, ecmd := .none, cmdItems := [], pos := 0 }

/-- R113: the items not yet taken are discarded. -/
def flushQueue (s : State) : State := { s with q := [] }

/-- R113: a running command aborts. -/
def abortIfBusy (s : State) : State := if s.busy then abort s else s

/-- R113 `sink_failure`: flush Q, abort a running command, record SINK_FAILURE with ERRINFO 0. -/
def sinkFailure (s : State) : State := errorEntry .sinkFailure 0 (abortIfBusy (flushQueue s))

/-- R19, R115: a host write of STATUS clears ERR and BWE where it has a 1, and nothing else. -/
def acknowledge (w : Word) (s : State) : State :=
  { s with err := s.err && !w.getLsbD 1, bwe := s.bwe && !w.getLsbD 2 }

/-- R24, R55: a refused write sets BWE and changes nothing else. -/
def setBwe (s : State) : State := { s with bwe := true }

/-! ### Acceptance and completion of ENCODE and ANIMATE -/

/-- The common end of R79 and R90: the item list is fixed, p and ITEMS restart, BUSY is set. -/
def accept (c : EngineCmd) (items : List Item) (s : State) : State :=
  { s with cmdItems := items, pos := 0, items := 0, ecmd := c, busy := true }

/-- R42, R89: an ANIMATE leaves its final window in LASTBUF. -/
def storeLast (s : State) : State :=
  if s.ecmd = .ani then { s with lastBuf := s.pendingLast, lastValid := true } else s

/-- R42 `complete`. -/
def complete (s : State) : State := { storeLast s with busy := false, ecmd := .none }

/-! ### Bytes of the frame buffer -/

/-- The byte listed at a block offset. -/
def Memory.get? : Memory → Nat → Option Byte
  | [], _ => none
  | (k, b) :: m, a => if a = k then some b else Memory.get? m a

/-- Store one byte, keeping the offsets rising. -/
def Memory.set : Memory → Nat → Byte → Memory
  | [], a, b => [(a, b)]
  | (k, c) :: m, a, b =>
    if a < k then (a, b) :: (k, c) :: m
    else if a = k then (a, b) :: m
    else (k, c) :: Memory.set m a b

/-- Store bytes at consecutive offsets. -/
def Memory.setBytes : Memory → Nat → List Byte → Memory
  | m, _, [] => m
  | m, a, b :: bs => Memory.setBytes (Memory.set m a b) (a + 1) bs

/-- R45: where the FB window begins. -/
abbrev fbBase : Nat := 0x10000

/-- R45: the first offset past the FB window, 0x10000 + 6·STRIDE. -/
def fbEnd (p : Params) : Nat := fbBase + ROWS * p.stride

/-- R53: the offset of byte `b` of row `r` of FB. -/
def fbOffset (p : Params) (r b : Nat) : Nat := fbBase + r * p.stride + b

/-- The FB byte at a block offset: what the host wrote there since reset, else a free value (R126, U1). -/
def fbByte (s : State) (off : Nat) : Byte :=
  match Memory.get? s.fb off with
  | some b => b
  | none => Config.fbUnknown s.fbDraw off

/-! ### Bitmaps and their packing -/

/-- R11: a bitmap, by row and column; lit is `true`. -/
abbrev Bitmap := Nat → Nat → Bool

/-- R53: `FB[r][c]`. -/
def fbBit (s : State) : Bitmap := fun r c =>
  (fbByte s (fbOffset s.params r (c / 8))).getLsbD (c % 8)

/-- R75, R77 `packbyte`: group `g` of row `r`, the leftmost column with weight 1. -/
def packByte (F : Bitmap) (r g : Nat) : Byte :=
  BitVec.ofNat 8 ((List.range 8).map fun i => (F r (8 * g + i)).toNat * 2 ^ i).sum

/-- R75, R76 `enc`: rows top to bottom, groups left to right. -/
def enc (F : Bitmap) (w : Nat) : List Byte :=
  (List.range ROWS).flatMap fun r => (List.range (w / 8)).map fun g => packByte F r g

/-- R78 `dec`, the inverse of `enc`. -/
def dec (B : List Byte) (w : Nat) : Bitmap := fun r c =>
  (B.getD (r * (w / 8) + c / 8) 0).getLsbD (c % 8)

/-- Byte `j` of a device frame's wire format. -/
def frameByte (f : DeviceFrame) (j : Nat) : Byte := f[j]?.getD 0

/-- R32, R54: bit `(r, c)` of a stored device frame. -/
def frameBit (f : DeviceFrame) : Bitmap := fun r c => (frameByte f (8 * r + c / 8)).getLsbD (c % 8)

/-- R54: the 48 bytes that store a device frame. -/
def frameOf (F : Bitmap) : DeviceFrame := Vector.ofFn fun j => packByte F (j.val / 8) (j.val % 8)

/-- Store bytes at consecutive places of a device frame (R47). -/
def frameSetBytes : DeviceFrame → Nat → List Byte → DeviceFrame
  | f, _, [] => f
  | f, j, b :: bs => frameSetBytes (f.setIfInBounds j b) (j + 1) bs

/-! ### Byte lanes of the bus -/

/-- R49: the value a read of `n` bytes returns, least significant byte at the lowest offset. -/
def joinBytes (n : Nat) (byte : Nat → Byte) : Word :=
  BitVec.ofNat 32 ((List.range n).map fun j => 2 ^ (8 * j) * (byte j).toNat).sum

/-- R49: the bytes a write of `n` bytes stores, lowest offset first. -/
def splitBytes (n : Nat) (v : Word) : List Byte :=
  (List.range n).map fun j => v.extractLsb' (8 * j) 8

/-! ### Turns and reset -/

/-- R5, U5: which agent moves next: a placed turn if there is one, else the free schedule's. -/
def nextTurn (s : State) : Turn :=
  match s.turns with
  | t :: _ => t
  | [] => Config.turn s.drawn

/-- The turn is taken. -/
def passTurn (s : State) : State :=
  match s.turns with
  | _ :: ts => { s with turns := ts }
  | [] => { s with drawn := s.drawn + 1 }

/-- R124, R125: the reset input puts the block's state at its reset values; the unknown FB contents are drawn anew. The
parameters and what lies outside the block (the host's program and its latest answer, the delivered trace, the turns)
stay (log 12). -/
def resetTurn (s : State) : State :=
  { State.reset with
    params := s.params
    fbDraw := s.fbDraw + 1
    hostProg := s.hostProg
    busResp := s.busResp
    delivered := s.delivered
    turns := s.turns
    drawn := s.drawn }

end Sys2Proof.Machine
end

