-- ==== Sys2Proof/Machine/Engine.lean ====
section
/-! DEFINITION. The engine's step and the sink's step (spec/10_state.md R41 to R43). -/

namespace Sys2Proof.Machine

open Sys2Proof

/-- R41: when the engine has a step. -/
def engineEnabled (s : State) : Bool :=
  s.busy && decide (s.pos < s.cmdItems.length) && decide (s.q.length < s.params.outDepth)

/-- R41: the next item goes to the tail of Q, and is counted. -/
def enqueue (it : Item) (s : State) : State :=
  { s with q := s.q ++ [it], pos := s.pos + 1, items := s.items + 1 }

/-- R41, R42: completion, in the same step, when the last item was enqueued. -/
def completeIfLast (s : State) : State :=
  if s.pos = s.cmdItems.length then complete s else s

/-- R41: the engine's turn. Where it has no step (idle, or Q full: back-pressure) nothing changes (log 6). -/
def engineTurn (s : State) : State :=
  if engineEnabled s then
    match s.cmdItems[s.pos]? with
    | some it => completeIfLast (enqueue it s)
    | none => s
  else s

/-- R43: when the sink has a step. -/
def sinkEnabled (s : State) : Bool := !s.q.isEmpty

/-- R43: the head of Q goes to the sink, and the pair is observed. -/
def takeHead (it : Item) (ok : Bool) (rest : List Item) (s : State) : State :=
  { s with q := rest, delivered := s.delivered ++ [(it, ok)] }

/-- R43: the sink takes the head of Q and answers `ok`, a free input; the pair is observed. With Q empty it has no step
and nothing changes (log 6). -/
def sinkTurn (ok : Bool) (s : State) : State :=
  match s.q with
  | [] => s
  | it :: rest => if ok then takeHead it ok rest s else sinkFailure (takeHead it ok rest s)

/-- R35, R119: how long an item asks the sink to wait, in the platform's time base. The block itself never waits. -/
def waitTime (p : Params) : Item → Nat
  | .frame _ => 0
  | .delay _ v => v.toNat * p.delayUnit

end Sys2Proof.Machine
end

