-- ==== Sys2Proof/WellFormed.lean ====
section
/-! DEFINITION. Which terms of Syntax stand for something the spec's encodings admit. -/

namespace Sys2Proof

/-- R66, R67: T and H are arguments of ANIMATE alone and every pair of them is legal, so every term of `Instr`
is the reading of exactly one legal word. -/
def Instr.wf : Instr → Bool
  | .nop => true
  | .encode => true
  | .animate _ _ => true
  | .lastClear => true
  | .lastSet => true
  | .lastBlank => true

/-- R44, R46 to R48: an access the bus can carry names an offset of the 2^17-byte space and 8, 16 or 32 bits,
and the data of a write fits its width. -/
def HostOp.wf : HostOp → Bool
  | .read off n => decide (off < 0x20000) && (n == 1 || n == 2 || n == 4)
  | .write off n v => decide (off < 0x20000) && (n == 1 || n == 2 || n == 4) && decide (v.toNat < 2 ^ (8 * n))
  | .wait => true

/-- R73, R74: offsets lie in the offset space, LOADROW names a row of FB and at most STRIDE bytes, LOADLAST gives
all 48 bytes. -/
def Line.wf (p : Params) : Line → Bool
  | .wr off _ => decide (off < 0x20000)
  | .wr16 off _ => decide (off < 0x20000)
  | .wr8 off _ => decide (off < 0x20000)
  | .rd off => decide (off < 0x20000)
  | .cmd i => i.wf
  | .wait => true
  | .clrerr => true
  | .loadrow r xs => decide (r < ROWS) && decide (xs.length ≤ p.stride)
  | .zerofb => true
  | .loadlast xs => xs.length == FRAME_BYTES
  | .run i => i.wf

end Sys2Proof
end

