-- ==== Sys2Proof/Decode.lean ====
section
/-! DEFINITION. The decoder of command words, total on every 32-bit word, and after it the encoder, both from
spec/30_encoding.md R64 to R67 and R70. -/

namespace Sys2Proof

/-- R70: why a word is illegal. Every one of these raises ILLEGAL_COMMAND; which class is named when several apply
is a DESIGN CHOICE no state shows (log 14). -/
inductive Reject where
  | reservedOpcode
  | reservedBits
  | flagsOutsideAnimate
  deriving DecidableEq, Repr

/-- R64: OP = w[3:0]. -/
def opField (w : Word) : Nat := (w.extractLsb' 0 4).toNat

/-- R64: the reserved bits w[7:4] and w[31:10] are all 0. -/
def reservedClear (w : Word) : Bool := w.extractLsb' 4 4 == 0#4 && w.extractLsb' 10 22 == 0#22

/-- R66: T = w[8]. -/
def tFlag (w : Word) : Bool := w.getLsbD 8

/-- R66: H = w[9]. -/
def hFlag (w : Word) : Bool := w.getLsbD 9

/-- R67: when a word is legal. -/
def legal (w : Word) : Bool :=
  decide (opField w ≤ 5) && reservedClear w && (opField w == 2 || (!tFlag w && !hFlag w))

/-- A command other than ANIMATE: its flags must be 0 (R66). -/
def decodePlain (w : Word) (i : Instr) : Except Reject Instr :=
  if !reservedClear w then .error .reservedBits
  else if tFlag w || hFlag w then .error .flagsOutsideAnimate
  else .ok i

/-- R65, R66, R70: the command a word stands for, or why it is illegal. -/
def decode (w : Word) : Except Reject Instr :=
  match opField w with
  | 0 => decodePlain w .nop
  | 1 => decodePlain w .encode
  | 2 => if !reservedClear w then .error .reservedBits else .ok (.animate (tFlag w) (hFlag w))
  | 3 => decodePlain w .lastClear
  | 4 => decodePlain w .lastSet
  | 5 => decodePlain w .lastBlank
  | _ => .error .reservedOpcode

/-- R64: a CMD32 word from its fields, the reserved bits 0. -/
def cmd32 (op : BitVec 4) (t h : Bool) : Word :=
  0#22 ++ BitVec.ofBool h ++ BitVec.ofBool t ++ 0#4 ++ op

/-- R65, R67: the word of a command. -/
def encode : Instr → Word
  | .nop => cmd32 0 false false
  | .encode => cmd32 1 false false
  | .animate t h => cmd32 2 t h
  | .lastClear => cmd32 3 false false
  | .lastSet => cmd32 4 false false
  | .lastBlank => cmd32 5 false false

/-- The command the decoder reads from an opcode-table word of `nbits` bits; every bit above them is 0. A command is
one 32-bit word (R64). -/
def decodeTableWord (nbits w : Nat) : Option Instr :=
  match decode (BitVec.ofNat 32 (w % 2 ^ nbits)) with
  | .ok i => some i
  | .error _ => none

end Sys2Proof
end

