-- ==== Sys2Proof/Machine/Operands.lean ====
section
/-! DEFINITION. What a command reads when it is accepted (spec/30_encoding.md R68): the width, the two bitmaps and the
geometry checks over them (spec/40_encoder.md R80, spec/41_scroll.md R95). A command word carries no operand. -/

namespace Sys2Proof.Machine

open Sys2Proof

/-- R68: W = WIDTH[15:0]. -/
abbrev opWidth (s : State) : Nat := s.width.toNat

/-- R104: ERRINFO of INVALID_GEOMETRY, zext_32(W). -/
def widthInfo (s : State) : Word := s.width.setWidth 32

/-- R68: LASTBUF as a bitmap. -/
def opLast (s : State) : Bitmap := frameBit s.lastBuf

/-- R80: the widths ENCODE rejects. -/
def encodeGeometryBad (s : State) : Bool :=
  opWidth s == 0 || opWidth s % 8 != 0 || decide (s.params.fbMaxCols < opWidth s)

/-- R95: the widths ANIMATE rejects. -/
def animateGeometryBad (s : State) : Bool := decide (s.params.fbMaxCols < opWidth s)

end Sys2Proof.Machine
end

