-- ==== Sys2Proof/Machine/Control.lean ====
section
/-! DEFINITION. The control commands (spec/42_control.md R96 to R100): each takes effect entirely in the host's CMD
write that accepts it. -/

namespace Sys2Proof.Machine

open Sys2Proof

/-- R96: NOP does nothing. -/
def execNop (s : State) : Host.Outcome State Fault Refusal := .next s

/-- R97: LAST_CLEAR sets `last` to none; the bytes stay (R132). -/
def execLastClear (s : State) : Host.Outcome State Fault Refusal := .next { s with lastValid := false }

/-- R98: LAST_SET marks LASTBUF as the previous frame. -/
def execLastSet (s : State) : Host.Outcome State Fault Refusal := .next { s with lastValid := true }

/-- R99: LAST_BLANK makes the all-unlit frame the previous frame. -/
def execLastBlank (s : State) : Host.Outcome State Fault Refusal :=
  .next { s with lastBuf := blankFrame, lastValid := true }

end Sys2Proof.Machine
end

