-- ==== Sys2Proof/Machine/Encoder.lean ====
section
/-! DEFINITION. ENCODE (spec/40_encoder.md R79, R80). -/

namespace Sys2Proof.Machine

open Sys2Proof

/-- R79: the item list of ENCODE: one FRAME of the columns below W. -/
def encodeItems (s : State) : List Item := [.frame (enc (fbBit s) (opWidth s))]

/-- R79, R80: ENCODE at acceptance. -/
def execEncode (s : State) : Host.Outcome State Fault Refusal :=
  .next (if encodeGeometryBad s then errorEntry .invalidGeometry (widthInfo s) s
    else accept .enc (encodeItems s) s)

end Sys2Proof.Machine
end

