-- ==== Sys2Proof/Machine/Scroll.lean ====
section
/-! DEFINITION. ANIMATE (spec/41_scroll.md R81 to R95): the column window, the row-shift mix, the item list and the
command. -/

namespace Sys2Proof.Machine

open Sys2Proof

/-- R81: window `i` of a logical frame of effective width `we`; columns at or beyond `we` are 0. -/
def win (s : State) (we i : Nat) : Bitmap := fun r c =>
  if i + c < we then fbBit s r (i + c) else false

/-- R82: intermediate frame `k` of the row-shift transition from `A` to `B`. -/
def inter (k : Nat) (A B : Bitmap) : Bitmap := fun r c =>
  if r < 5 - k then A (r + k + 1) c else B (r - (5 - k)) c

/-- R83: We. -/
def effWidth (t : Bool) (w : Nat) : Nat := if t then min w COLS else w

/-- R83: n = max(We − COLS, 1). On naturals the subtraction stops at 0, which the maximum hides. -/
def windowCount (we : Nat) : Nat := max (we - COLS) 1

/-- R86, C3: the init-hold gate; the other reading is U23's. -/
def initGateOpen (p : Params) (we : Nat) : Bool :=
  match p.initGate with
  | .width => decide (COLS < we)
  | .steps => decide (1 < windowCount we)

/-- R85, R86: the items of the first window when `last` is a frame. -/
def curtainItems (s : State) (we : Nat) : List Item :=
  ((List.range 6).flatMap fun k =>
    Item.frame (enc (inter k (opLast s) (win s we 0)) COLS) ::
      (if k < s.params.rsDelays.count then [Item.delay .rs s.rsDelay] else [])) ++
  (if initGateOpen s.params we then [Item.delay .init s.initDelay] else [])

/-- R87: the items of a window that is shown directly. -/
def shiftItems (s : State) (we i : Nat) : List Item :=
  [.frame (enc (win s we i) COLS), .delay .cs s.csDelay]

/-- R84: the items of window `i`. -/
def windowItems (s : State) (we i : Nat) : List Item :=
  if i = 0 ∧ s.lastValid = true then curtainItems s we else shiftItems s we i

/-- R88: the hold item. -/
def holdItems (s : State) (h : Bool) : List Item :=
  if h then [.delay .hold s.holdDelay] else []

/-- R84: the item list L of ANIMATE. -/
def animateItems (s : State) (t h : Bool) : List Item :=
  ((List.range (windowCount (effWidth t (opWidth s)))).flatMap (windowItems s (effWidth t (opWidth s)))) ++
    holdItems s h

/-- R89: NL = win(n − 1). -/
def animateLast (s : State) (t : Bool) : DeviceFrame :=
  frameOf (win s (effWidth t (opWidth s)) (windowCount (effWidth t (opWidth s)) - 1))

/-- R90: the acceptance of ANIMATE fixes L and NL. -/
def acceptAnimate (t h : Bool) (s : State) : State :=
  { accept .ani (animateItems s t h) s with pendingLast := animateLast s t }

/-- R90, R95: ANIMATE at acceptance. -/
def execAnimate (t h : Bool) (s : State) : Host.Outcome State Fault Refusal :=
  .next (if animateGeometryBad s then errorEntry .invalidGeometry (widthInfo s) s
    else acceptAnimate t h s)

end Sys2Proof.Machine
end

