-- ==== Sys2Proof/Machine/Dispatch.lean ====
section
/-! DEFINITION. The meaning of each accepted command (spec/30_encoding.md R65, R69), one arm per constructor. -/

namespace Sys2Proof.Machine

open Sys2Proof

def exec (i : Instr) (s : State) : Host.Outcome State Fault Refusal :=
  match i with
  | .nop => Sys2Proof.Machine.execNop s
  | .encode => Sys2Proof.Machine.execEncode s
  | .animate t h => Sys2Proof.Machine.execAnimate t h s
  | .lastClear => Sys2Proof.Machine.execLastClear s
  | .lastSet => Sys2Proof.Machine.execLastSet s
  | .lastBlank => Sys2Proof.Machine.execLastBlank s

end Sys2Proof.Machine
end

