-- ==== Sys2Proof/Machine/Bus.lean ====
section
/-! DEFINITION. The host bus (spec/20_memory.md R44 to R56): the map of the offset space, the legal widths and
alignments, reads, writes, the refusal of writes while a command runs, and the acceptance of a command written to CMD
(spec/30_encoding.md R69). -/

namespace Sys2Proof.Machine

open Sys2Proof

/-- R15: the registers of the map. -/
inductive Reg where
  | id
  | param
  | cmd
  | status
  | width
  | errinfo
  | rsDelay
  | csDelay
  | initDelay
  | holdDelay
  | items
  deriving DecidableEq, Repr

/-- R15: the offset of a register. -/
def Reg.offset : Reg → Nat
  | .id => 0x000
  | .param => 0x004
  | .cmd => 0x008
  | .status => 0x00C
  | .width => 0x010
  | .errinfo => 0x014
  | .rsDelay => 0x018
  | .csDelay => 0x01C
  | .initDelay => 0x020
  | .holdDelay => 0x024
  | .items => 0x028

/-- R15: the register at an offset. -/
def regAt (off : Nat) : Option Reg :=
  match off with
  | 0x000 => some .id
  | 0x004 => some .param
  | 0x008 => some .cmd
  | 0x00C => some .status
  | 0x010 => some .width
  | 0x014 => some .errinfo
  | 0x018 => some .rsDelay
  | 0x01C => some .csDelay
  | 0x020 => some .initDelay
  | 0x024 => some .holdDelay
  | 0x028 => some .items
  | _ => none

/-- R8, R44: where an offset lies in the host's own address space. -/
def hostAddress (p : Params) (off : Nat) : Nat := p.base + off

/-- What a legal access reaches: a register, byte `j` of the LAST window, or the FB byte at a block offset. -/
inductive Target where
  | reg  (r : Reg)
  | last (j : Nat)
  | fb   (off : Nat)
  deriving DecidableEq, Repr

/-- R45: where the LAST window begins. -/
abbrev lastBase : Nat := 0x100

/-- R47, R48: 8-, 16- and 32-bit accesses, naturally aligned. -/
def windowAccess (off n : Nat) : Bool := (n == 1 || n == 2 || n == 4) && off % n == 0

/-- R45 to R51: what an access of `n` bytes at `off` reaches; none is a BusError (logs 1 and 15). -/
def busTarget (p : Params) (off n : Nat) : Option Target :=
  if off < 0x2C then
    (if n = 4 then (regAt off).map Target.reg else none)
  else if lastBase ≤ off ∧ off < lastBase + FRAME_BYTES then
    (if windowAccess off n then some (.last (off - lastBase)) else none)
  else if fbBase ≤ off ∧ off + n ≤ fbEnd p then
    (if windowAccess off n then some (.fb off) else none)
  else none

/-- R15 to R31: the value a register reads as. -/
def regRead (s : State) : Reg → Word
  | .id => idWord
  | .param => paramWord s.params
  | .cmd => 0
  | .status => statusWord s
  | .width => s.width.setWidth 32
  | .errinfo => s.errInfo
  | .rsDelay => s.rsDelay
  | .csDelay => s.csDelay
  | .initDelay => s.initDelay
  | .holdDelay => s.holdDelay
  | .items => s.items

/-- R47 to R49, R56: the value an `n`-byte read of a target returns; it has no side effect. -/
def readTarget (s : State) (n : Nat) : Target → Word
  | .reg r => regRead s r
  | .last j => joinBytes n fun k => frameByte s.lastBuf (j + k)
  | .fb off => joinBytes n fun k => fbByte s (off + k)

/-- MemRead (R49); none is a BusError (R50, R51). -/
def memRead (s : State) (off n : Nat) : Option Word := (busTarget s.params off n).map (readTarget s n)

/-- R55: the targets whose writes are refused while BUSY = 1. -/
def refusedWhileBusy : Target → Bool
  | .reg .id => false
  | .reg .param => false
  | .reg .cmd => true
  | .reg .status => false
  | .reg .width => true
  | .reg .errinfo => false
  | .reg .rsDelay => true
  | .reg .csDelay => true
  | .reg .initDelay => true
  | .reg .holdDelay => true
  | .reg .items => false
  | .last _ => true
  | .fb _ => true

/-- R69: acceptance of a command word, in the order of R108. -/
def issue (w : Word) (s : State) : Host.Outcome State Fault Refusal :=
  if s.busy then .next (setBwe s)
  else if s.err then .next s
  else
    match decode w with
    | .error _ => .next (errorEntry .illegalCommand w s)
    | .ok i => exec i s

/-- The write of a target other than CMD that is not refused: R52 for read-only registers, R19 for STATUS, R25 to R30
for the others, R47 and R48 for the windows. -/
def storeTarget (n : Nat) (v : Word) (s : State) : Target → State
  | .reg .id => s
  | .reg .param => s
  | .reg .cmd => s
  | .reg .status => acknowledge v s
  | .reg .width => { s with width := v.setWidth 16 }
  | .reg .errinfo => s
  | .reg .rsDelay => { s with rsDelay := v }
  | .reg .csDelay => { s with csDelay := v }
  | .reg .initDelay => { s with initDelay := v }
  | .reg .holdDelay => { s with holdDelay := v }
  | .reg .items => s
  | .last j => { s with lastBuf := frameSetBytes s.lastBuf j (splitBytes n v) }
  | .fb off => { s with fb := Memory.setBytes s.fb off (splitBytes n v) }

/-- MemWrite (R49): a BusError faults the host's step (R50); a CMD write issues a command (R69); any other write is
refused while BUSY = 1 if R55 says so. -/
def memWrite (off n : Nat) (v : Word) (s : State) : Host.Outcome State Fault Refusal :=
  match busTarget s.params off n with
  | none => .fault .busError
  | some (.reg .cmd) => issue v s
  | some t => .next (if s.busy && refusedWhileBusy t then setBwe s else storeTarget n v s t)

end Sys2Proof.Machine
end

