-- ==== Sys2Proof/Machine/HostPort.lean ====
section
/-! DEFINITION. The host's turn (spec/00_scope.md R5, spec/20_memory.md R57): one bus access of its program. -/

namespace Sys2Proof.Machine

open Sys2Proof

/-- A read: its data is the bus's answer (R49); a BusError faults the step (R50). -/
def hostRead (off n : Nat) (s : State) : Host.Outcome State Fault Refusal :=
  match memRead s off n with
  | some v => .next { s with busResp := .data v }
  | none => .fault .busError

/-- A write: it completes on the bus, refused or not (R55), or faults the step (R50). -/
def hostWrite (off n : Nat) (v : Word) (s : State) : Host.Outcome State Fault Refusal :=
  memWrite off n v { s with busResp := .done }

/-- R74 WAIT: one read of STATUS; the line is done when bit 0 of the value read is 0 (log 19). -/
def hostWait (rest : List HostOp) (s : State) : State :=
  if (statusWord s).getLsbD 0 then { s with busResp := .data (statusWord s) }
  else { s with hostProg := rest, busResp := .data (statusWord s) }

/-- The host's turn: the next access of its program. After the last one it has no step and nothing changes (log 6). -/
def hostTurn (s : State) : Host.Outcome State Fault Refusal :=
  match s.hostProg with
  | [] => .next s
  | .read off n :: rest => hostRead off n { s with hostProg := rest }
  | .write off n v :: rest => hostWrite off n v { s with hostProg := rest }
  | .wait :: rest => .next (hostWait rest s)

end Sys2Proof.Machine
end

