-- ==== Sys2Proof/Machine/Step.lean ====
section
/-! DEFINITION. One step of LEDFE (spec/00_scope.md R5, spec/20_memory.md R57): one agent takes its turn. -/

namespace Sys2Proof.Machine

open Sys2Proof

/-- R5, R57: the agent whose turn it is makes one atomic step. -/
def step (s : State) : Host.Outcome State Fault Refusal :=
  match nextTurn s with
  | .host => hostTurn (passTurn s)
  | .engine => .next (engineTurn (passTurn s))
  | .sink ok => .next (sinkTurn ok (passTurn s))
  | .reset => .next (resetTurn (passTurn s))

/-- The host's next access is the CMD write of an opcode-table word of `nbits` bits, and the host moves next, so that
the very next step decodes and runs it (log 8). LEDFE fetches no command from memory (R61, R72). -/
def State.withFetchWord (s : State) (nbits w : Nat) : State :=
  { s with
    hostProg := .write Reg.cmd.offset 4 (BitVec.ofNat 32 (w % 2 ^ nbits)) :: s.hostProg
    turns := .host :: s.turns }

end Sys2Proof.Machine
end

