-- ==== Sys2Proof/Machine/HostProgram.lean ====
section
/-! DEFINITION. The host-program notation (spec/30_encoding.md R73, R74): each line as the bus accesses it stands for. -/

namespace Sys2Proof.Machine

open Sys2Proof

/-- R73: `CMD <mnemonic>` = `WR CMD, <command word>`. -/
def cmdOp (i : Instr) : HostOp := .write Reg.cmd.offset 4 (encode i)

/-- R74: 8-bit writes of consecutive bytes from an offset. -/
def byteWrites : Nat → List Byte → List HostOp
  | _, [] => []
  | off, x :: xs => .write off 1 (x.setWidth 32) :: byteWrites (off + 1) xs

/-- R73, R74: the accesses a line stands for. -/
def expandLine (p : Params) : Line → List HostOp
  | .wr off v => [.write off 4 v]
  | .wr16 off v => [.write off 2 (v.setWidth 32)]
  | .wr8 off v => [.write off 1 (v.setWidth 32)]
  | .rd off => [.read off 4]
  | .cmd i => [cmdOp i]
  | .wait => [.wait]
  | .clrerr => [.write Reg.status.offset 4 0x00000006#32]
  | .loadrow r xs => byteWrites (fbOffset p r 0) xs
  | .zerofb => byteWrites fbBase (List.replicate (ROWS * p.stride) 0)
  | .loadlast xs => byteWrites lastBase xs
  | .run i => [cmdOp i, .wait]

/-- A host program, appended to what the host still has to do (log 8). -/
def loadProgram (ls : List Line) (s : State) : State :=
  { s with hostProg := s.hostProg ++ ls.flatMap (expandLine s.params) }

end Sys2Proof.Machine
end

