-- ==== Sys2Proof/Safety.lean ====
section
/-! DEFINITION. What holds of every state a run can reach (spec/10_state.md R31, R36, R37, spec/60_exceptions.md R102,
R116), the end of a run (spec/70_reset_and_hazards.md R136) and a hang (R134), in the terms statements use. -/

namespace Sys2Proof.Machine

open Sys2Proof

/-- R35: an ANIMATE FRAME has 48 bytes; a DELAY carries no bytes. -/
def Item.deviceSized : Item → Bool
  | .frame bs => bs.length == FRAME_BYTES
  | .delay _ _ => true

/-- The invariant of the machine. -/
structure Inv (s : State) : Prop where
  /-- R8: the parameters are legal. -/
  paramsLegal : s.params.legal
  /-- The FB bytes stand in canonical form. -/
  fbCanonical : Memory.wf s.fb
  /-- R45, R48: only offsets of the FB window are ever written. -/
  fbInWindow : ∀ c ∈ s.fb, fbBase ≤ c.1 ∧ c.1 < fbEnd s.params
  /-- R36: Q holds at most OUT_DEPTH items. -/
  queueBounded : s.q.length ≤ s.params.outDepth
  /-- R37: a command runs exactly when BUSY = 1. -/
  busyIffRunning : s.busy = true ↔ s.ecmd ≠ .none
  /-- R116: no command runs while ERR = 1. -/
  errImpliesIdle : s.err = true → s.busy = false
  /-- R41, R42: a running command still has an item to enqueue. -/
  runningHasItem : s.busy = true → s.pos < s.cmdItems.length
  /-- R31: ITEMS counts the items enqueued by the running command, and cannot wrap. -/
  itemsCount : s.busy = true → s.items.toNat = s.pos ∧ s.cmdItems.length < 2 ^ 32
  /-- R35: every FRAME of a running ANIMATE has 48 bytes. -/
  animateFrames : s.ecmd = .ani → ∀ it ∈ s.cmdItems, it.deviceSized = true
  /-- R103, U9: INVALID_CHARACTER is never recorded. -/
  codeProduced : s.errCode ≠ .invalidCharacter
  /-- R102: an outstanding error has a code. -/
  errHasCode : s.err = true → s.errCode ≠ .none

/-- R136: the run of the host's program has ended. -/
abbrev Ended (s : State) : Prop := s.hostProg = [] ∧ s.busy = false ∧ s.q = []

/-- R134: the engine has no step and waits for the sink. -/
abbrev EngineBlocked (s : State) : Prop := s.busy = true ∧ engineEnabled s = false

/-- The items still to come out of the block, in order: those waiting in Q, then the rest of the running command's. -/
def pendingItems (s : State) : List Item :=
  s.q ++ (if s.busy then s.cmdItems.drop s.pos else [])

/-- R43, R136: everything delivered so far and still to come, in order. -/
def outputStream (s : State) : List Item :=
  s.delivered.map Prod.fst ++ pendingItems s

/-- The state in which a host access of the program acts: the turn is taken, the access is off the program, and the bus
has answered. -/
def afterHost (rest : List HostOp) (resp : BusResp) (s : State) : State :=
  { passTurn s with hostProg := rest, busResp := resp }

/-- The access is one of a register (R46). -/
abbrev regAccess (off n : Nat) : Prop := off < 0x2C ∧ n = 4 ∧ off % 4 = 0

/-- The access is one of the LAST window (R47). -/
abbrev lastAccess (off n : Nat) : Prop :=
  0x100 ≤ off ∧ off < 0x130 ∧ (n = 1 ∨ n = 2 ∨ n = 4) ∧ off % n = 0

/-- The access is one of the FB window (R48). -/
abbrev fbAccess (p : Params) (off n : Nat) : Prop :=
  0x10000 ≤ off ∧ off + n ≤ 0x10000 + 6 * (p.fbMaxCols / 8) ∧ (n = 1 ∨ n = 2 ∨ n = 4) ∧ off % n = 0

/-- R45 to R48: the accesses the map admits, in the spec's own offsets. -/
abbrev legalAccess (p : Params) (off n : Nat) : Prop :=
  regAccess off n ∨ lastAccess off n ∨ fbAccess p off n

/-- A turn in which the block goes on without the host, the sink accepting: the engine's, or the sink's with answer ok. -/
def goesOn : Turn → Bool
  | .host => false
  | .engine => true
  | .sink ok => ok
  | .reset => false

/-- A FRAME item, not a DELAY. -/
def isFrame : Item → Bool
  | .frame _ => true
  | .delay _ _ => false

/-- The bytes of the last FRAME item of a list. -/
def lastFrameBytes : List Item → Option (List Byte)
  | [] => none
  | .frame bs :: l => some ((lastFrameBytes l).getD bs)
  | .delay _ _ :: l => lastFrameBytes l

end Sys2Proof.Machine
end

