-- ==== Sys2Proof/Certificates/Slice0/Obligations.lean ====
section
/-! DEFINITION. The statements for the provers, from the numbered rules of spec/. A statement about a register or a
window is made at the bus (`memRead`, `memWrite`); `HostTurnIsBusAccess` says that a host turn of `step` is that access. -/

open Sys2Proof Sys2Proof.Machine

/-! ### Reset -/

/-- R40, R124: every register, LASTBUF, Q and the engine stand at their reset values, and every byte of FB is unknown. -/
def Obligations.ResetLeavesTheStatedValues : Prop :=
  (regRead State.reset .id = 0x4C454446#32 ∧
    regRead State.reset .param = BitVec.ofNat 32
      (min State.reset.params.outDepth 255 % 256 * 2 ^ 16 + State.reset.params.fbMaxCols % 2 ^ 16) ∧
    regRead State.reset .cmd = 0 ∧ regRead State.reset .status = 0 ∧ regRead State.reset .width = 0 ∧
    regRead State.reset .errinfo = 0 ∧ regRead State.reset .rsDelay = 0 ∧ regRead State.reset .csDelay = 0 ∧
    regRead State.reset .initDelay = 0 ∧ regRead State.reset .holdDelay = 0 ∧ regRead State.reset .items = 0) ∧
  (State.reset.busy = false ∧ State.reset.err = false ∧ State.reset.bwe = false ∧
    State.reset.lastValid = false ∧ State.reset.errCode.bits = 0) ∧
  (∀ r < 6, ∀ c < 64, frameBit State.reset.lastBuf r c = false ∧ frameBit State.reset.pendingLast r c = false) ∧
  (∀ off, fbByte State.reset off = Config.fbUnknown State.reset.fbDraw off) ∧
  State.reset.q = [] ∧ State.reset.ecmd = .none ∧ State.reset.cmdItems = [] ∧ State.reset.pos = 0

/-- R124, R125: a reset turn, during a command too, leaves every register, LASTBUF, Q and the engine as after reset, FB
unknown, no error, and the delivered trace as it was. That the parameters, the host's program and the remaining turns
stay is the model's own (log 12). -/
def Obligations.ResetTurnRestoresTheBlock : Prop :=
  ∀ s : State, nextTurn s = .reset → ∃ t, step s = .next t ∧
    (∀ r : Reg, r ≠ .param → regRead t r = regRead State.reset r) ∧ regRead t .param = paramWord s.params ∧
    t.busy = false ∧ t.err = false ∧ t.bwe = false ∧ t.lastValid = false ∧ t.errCode = .none ∧
    (∀ r < 6, ∀ c < 64, frameBit t.lastBuf r c = false ∧ frameBit t.pendingLast r c = false) ∧
    (∀ off, fbByte t off = Config.fbUnknown t.fbDraw off) ∧ t.fbDraw = s.fbDraw + 1 ∧
    t.q = [] ∧ t.ecmd = .none ∧ t.cmdItems = [] ∧ t.pos = 0 ∧
    t.delivered = s.delivered ∧ t.params = s.params ∧ t.hostProg = s.hostProg

/-! ### Encoding -/

/-- R65, R66: the nine words written out bit by bit from the fields of R64, and some illegal ones. -/
def Obligations.DecodeReadsTheSpecsWords : Prop :=
  decode 0b00000000000000000000000000000000#32 = .ok .nop ∧
  decode 0b00000000000000000000000000000001#32 = .ok .encode ∧
  decode 0b00000000000000000000000000000010#32 = .ok (.animate false false) ∧
  decode 0b00000000000000000000000100000010#32 = .ok (.animate true false) ∧
  decode 0b00000000000000000000001000000010#32 = .ok (.animate false true) ∧
  decode 0b00000000000000000000001100000010#32 = .ok (.animate true true) ∧
  decode 0b00000000000000000000000000000011#32 = .ok .lastClear ∧
  decode 0b00000000000000000000000000000100#32 = .ok .lastSet ∧
  decode 0b00000000000000000000000000000101#32 = .ok .lastBlank ∧
  (∀ i, decode 0x00000006#32 ≠ .ok i ∧ decode 0x00000010#32 ≠ .ok i ∧ decode 0x00000101#32 ≠ .ok i ∧
    decode 0x00000402#32 ≠ .ok i ∧ decode 0x80000002#32 ≠ .ok i)

/-- Decoding and encoding agree both ways: a word decodes to a command exactly when it is that command's word. -/
def Obligations.DecodeEncodeAgree : Prop :=
  ∀ (w : Word) (i : Instr), decode w = .ok i ↔ w = encode i

/-- R67: the words that decode are those the formula calls legal, and they are exactly nine. -/
def Obligations.LegalWordsAreExactlyNine : Prop :=
  ∀ w : Word,
    ((∃ i, decode w = .ok i) ↔
      w.toNat % 16 ≤ 5 ∧ w.toNat / 16 % 16 = 0 ∧ w.toNat / 1024 = 0 ∧
        (w.toNat % 16 ≠ 2 → w.toNat / 256 % 4 = 0)) ∧
    ((∃ i, decode w = .ok i) ↔
      w = 0x00000000#32 ∨ w = 0x00000001#32 ∨ w = 0x00000002#32 ∨ w = 0x00000102#32 ∨ w = 0x00000202#32 ∨
        w = 0x00000302#32 ∨ w = 0x00000003#32 ∨ w = 0x00000004#32 ∨ w = 0x00000005#32)

/-! ### Steps and acceptance -/

/-- R69 at the level of a step: when the host's next access writes a command's word to CMD and the block is idle with
no error, the step is `exec` of that command, in the state where the turn and the access are used up and the bus has
answered; and `withFetchWord` places exactly such a step. -/
def Obligations.StepRunsTheDecodedCommand : Prop :=
  (∀ (s : State) (w : Word) (i : Instr) (rest : List HostOp),
    nextTurn s = .host → s.hostProg = .write 0x008 4 w :: rest → s.busy = false → s.err = false →
    decode w = .ok i → step s = exec i (afterHost rest .done s)) ∧
  (∀ (s : State) (i : Instr), s.busy = false → s.err = false →
    step (s.withFetchWord 32 (encode i).toNat) = exec i { s with busResp := .done })

/-- A host turn is one bus access: a read answers its data and changes nothing else, a write is `memWrite`, and WAIT
reads STATUS once and is over when BUSY reads 0 (R73, R74). The bookkeeping of the turn is the model's own
(logs 6, 8, 10). -/
def Obligations.HostTurnIsBusAccess : Prop :=
  ∀ (s : State) (rest : List HostOp), nextTurn s = .host →
    (∀ off n, s.hostProg = .read off n :: rest →
      (∀ v, memRead s off n = some v → step s = .next (afterHost rest (.data v) s)) ∧
      (memRead s off n = none → step s = .fault .busError)) ∧
    (∀ off n v, s.hostProg = .write off n v :: rest → step s = memWrite off n v (afterHost rest .done s)) ∧
    (s.hostProg = .wait :: rest →
      (s.busy = true → step s = .next (afterHost (.wait :: rest) (.data (regRead s .status)) s)) ∧
      (s.busy = false → step s = .next (afterHost rest (.data (regRead s .status)) s))) ∧
    (s.hostProg = [] → step s = .next (passTurn s))

/-- R108: at a CMD write the first outcome that applies is taken: refused, discarded, illegal, bad geometry, accepted. -/
def Obligations.CommandPriority : Prop :=
  ∀ (s : State) (w : Word),
    (s.busy = true → memWrite 0x008 4 w s = .next { s with bwe := true }) ∧
    (s.busy = false → s.err = true → memWrite 0x008 4 w s = .next s) ∧
    (s.busy = false → s.err = false → (∀ i, w ≠ encode i) →
      memWrite 0x008 4 w s = .next { s with err := true, errCode := .illegalCommand, errInfo := w }) ∧
    (s.busy = false → s.err = false →
      (w = 1#32 ∧ (s.width.toNat = 0 ∨ s.width.toNat % 8 ≠ 0 ∨ s.params.fbMaxCols < s.width.toNat) ∨
        (w = 0x002#32 ∨ w = 0x102#32 ∨ w = 0x202#32 ∨ w = 0x302#32) ∧ s.params.fbMaxCols < s.width.toNat) →
      memWrite 0x008 4 w s =
        .next { s with err := true, errCode := .invalidGeometry, errInfo := BitVec.ofNat 32 s.width.toNat }) ∧
    (s.busy = false → s.err = false → ∀ i, w = encode i → memWrite 0x008 4 w s = exec i s)

/-- R70, R107: an illegal word that reaches decode records ILLEGAL_COMMAND (code 4) and the word, and changes nothing
else. -/
def Obligations.IllegalWordRecordsItself : Prop :=
  ErrCode.illegalCommand.bits = 4#4 ∧ ∀ (s : State) (w : Word), s.busy = false → s.err = false →
    (6 ≤ w.toNat % 16 ∨ w.toNat / 16 % 16 ≠ 0 ∨ w.toNat / 1024 ≠ 0 ∨
      (w.toNat % 16 ≠ 2 ∧ w.toNat / 256 % 4 ≠ 0)) →
    memWrite 0x008 4 w s = .next { s with err := true, errCode := .illegalCommand, errInfo := w }

/-! ### Control commands -/

/-- R96: NOP (word 0) changes nothing; a write of it is refused while BUSY, and discarded while ERR. -/
def Obligations.NopChangesNothing : Prop :=
  encode .nop = 0x00000000#32 ∧ ∀ s : State, exec .nop s = .next s ∧
    (s.busy = false → memWrite 0x008 4 0x00000000#32 s = .next s) ∧
    (s.busy = true → memWrite 0x008 4 0x00000000#32 s = .next { s with bwe := true })

/-- R97: LAST_CLEAR (word 3) clears LAST_VALID and nothing else, the LAST window still reads the old bytes, and a
following ANIMATE of width 64 takes the path without `last` and emits 2 items. -/
def Obligations.LastClearMakesLastNone : Prop :=
  encode .lastClear = 0x00000003#32 ∧
  ∀ s : State, s.params.legal → ∃ t, exec .lastClear s = .next t ∧ t = { s with lastValid := false } ∧
    (∀ off n, lastAccess off n → memRead t off n = memRead s off n) ∧
    ∃ u, exec (.animate false false) { t with width := 64 } = .next u ∧ u.cmdItems.length = 2

/-- R98, R132: LAST_SET (word 4) sets LAST_VALID and nothing else; after LAST_CLEAR it brings the old bytes back, and
right after reset it is the same as LAST_BLANK. -/
def Obligations.LastSetMarksTheBuffer : Prop :=
  encode .lastSet = 0x00000004#32 ∧
  (∀ s : State, exec .lastSet s = .next { s with lastValid := true }) ∧
  (∀ s : State, s.lastValid = true → ∃ t, exec .lastClear s = .next t ∧ exec .lastSet t = .next s) ∧
  exec .lastSet State.reset = exec .lastBlank State.reset

/-- R99: LAST_BLANK (word 5) clears every bit of LASTBUF, sets LAST_VALID, and changes nothing else; in a following ANIMATE
of an all-lit frame of width 64, row `r` of intermediate frame `k` is lit exactly when r ≥ 5 − k. -/
def Obligations.LastBlankMakesLastUnlit : Prop :=
  encode .lastBlank = 0x00000005#32 ∧
  ∀ s : State, ∃ t, exec .lastBlank s = .next t ∧ t.lastValid = true ∧
    (∀ r < 6, ∀ c < 64, frameBit t.lastBuf r c = false) ∧
    (∀ j < 48, memRead t (0x100 + j) 1 = some 0) ∧
    t = { s with lastValid := true, lastBuf := t.lastBuf } ∧
    (s.params.legal → (∀ r < 6, ∀ c < 64, fbBit s r c = true) →
      ∃ u, exec (.animate false false) { t with width := 64 } = .next u ∧
        ∀ k < 6, ∃ bs : List Byte, u.cmdItems[2 * k]? = some (.frame bs) ∧
          ∀ r < 6, ∀ c < 64, dec bs 64 r c = decide (5 - k ≤ r))

/-- R100: the control commands take effect in the host step that writes CMD, and touch neither Q, ITEMS, WIDTH, the
delay registers nor the engine, and raise no error. -/
def Obligations.ControlCommandsAreAtomic : Prop :=
  ∀ (s : State) (rest : List HostOp) (i : Instr),
    i = .nop ∨ i = .lastClear ∨ i = .lastSet ∨ i = .lastBlank →
    nextTurn s = .host → s.hostProg = cmdOp i :: rest → s.busy = false → s.err = false →
    ∃ t, step s = .next t ∧
      t.lastValid = (if i = .nop then s.lastValid else decide (i ≠ .lastClear)) ∧
      (∀ j < 48, frameByte t.lastBuf j = if i = .lastBlank then 0 else frameByte s.lastBuf j) ∧
      t.q = s.q ∧ t.items = s.items ∧ t.width = s.width ∧ t.rsDelay = s.rsDelay ∧ t.csDelay = s.csDelay ∧
      t.initDelay = s.initDelay ∧ t.holdDelay = s.holdDelay ∧ t.busy = false ∧ t.err = false ∧ t.bwe = s.bwe ∧
      t.errCode = s.errCode ∧ t.errInfo = s.errInfo ∧ t.ecmd = s.ecmd ∧ t.cmdItems = s.cmdItems ∧ t.pos = s.pos ∧
      t.pendingLast = s.pendingLast ∧ (∀ off, fbByte t off = fbByte s off)

/-! ### Packing and ENCODE -/

/-- R75, R76, R77: an encoded bitmap has 6·w/8 bytes, row by row; the byte of group `g` of row `r` is the sum of its
columns' bits with weights 2^i, so that bit `i` is column `i` of the group, the leftmost with weight 1. -/
def Obligations.EncodedBytesInRowAndGroupOrder : Prop :=
  ∀ (F : Bitmap) (w : Nat), w % 8 = 0 → (enc F w).length = 6 * w / 8 ∧
    ∀ r < 6, ∀ g < w / 8, ∃ b : Byte, (enc F w)[r * (w / 8) + g]? = some b ∧
      b.toNat = ((List.range 8).map fun i => if F r (8 * g + i) then 2 ^ i else 0).sum ∧
      ∀ i < 8, b.getLsbD i = F r (8 * g + i)

/-- R78: decoding an encoded bitmap gives the bitmap back, and encoding decoded bytes gives the bytes back. -/
def Obligations.PackingRoundTrip : Prop :=
  (∀ (B : List Byte) (w r c : Nat) (b : Byte), B[r * (w / 8) + c / 8]? = some b →
    dec B w r c = b.getLsbD (c % 8)) ∧
  (∀ (F : Bitmap) (w : Nat), w % 8 = 0 → ∀ r < 6, ∀ c < w, dec (enc F w) w r c = F r c) ∧
  (∀ (B : List Byte) (w : Nat), w % 8 = 0 → B.length = 6 * w / 8 → enc (dec B w) w = B)

/-- R79: ENCODE of a good width, in every state: its item list is one FRAME that decodes to the FB columns below W; p and
ITEMS restart, BUSY is set, and nothing else changes. -/
def Obligations.EncodeIsAccepted : Prop :=
  ∀ s : State, s.width.toNat ≠ 0 → s.width.toNat % 8 = 0 → s.width.toNat ≤ s.params.fbMaxCols →
    ∃ bs : List Byte, bs.length = 6 * s.width.toNat / 8 ∧
      (∀ r < 6, ∀ c < s.width.toNat, dec bs s.width.toNat r c = fbBit s r c) ∧
      exec .encode s =
        .next { s with cmdItems := [.frame bs], pos := 0, items := 0, ecmd := .enc, busy := true }

/-- R80: ENCODE with a bad width records INVALID_GEOMETRY and W and changes nothing else; with any other width it
raises no error. -/
def Obligations.EncodeGeometryCheck : Prop :=
  ∀ s : State, s.err = false →
    (s.width.toNat % 8 ≠ 0 ∨ s.width.toNat = 0 ∨ s.params.fbMaxCols < s.width.toNat →
      exec .encode s =
        .next { s with err := true, errCode := .invalidGeometry, errInfo := BitVec.ofNat 32 s.width.toNat }) ∧
    (¬(s.width.toNat % 8 ≠ 0 ∨ s.width.toNat = 0 ∨ s.params.fbMaxCols < s.width.toNat) →
      ∃ t, exec .encode s = .next t ∧ t.err = false ∧ t.errCode = s.errCode ∧ t.errInfo = s.errInfo)

/-! ### ANIMATE -/

/-- R82: intermediate frame `k` stacks the last 6 − k − 1 rows of `A` on top of the first k + 1 rows of `B`, and the
sixth equals `B`. -/
def Obligations.RowShiftStacksRows : Prop :=
  ∀ (A B : Bitmap) (k : Nat), k ≤ 5 →
    (List.range 6).map (inter k A B) =
      ((List.range 6).map A).drop (k + 1) ++ ((List.range 6).map B).take (k + 1) ∧
    ∀ r < 6, inter 5 A B r = B r

/-- R81: a window shows FB columns i … i+63 below We and 0 elsewhere, and the next window is the same one shifted left
by a column, with column i + 64 entering on the right. -/
def Obligations.WindowSlidesOneColumn : Prop :=
  ∀ (s : State) (we i : Nat), ∀ r < 6,
    (∀ c < 64, win s we i r c = (decide (i + c < we) && fbBit s r (i + c))) ∧
    (∀ c < 63, win s we (i + 1) r c = win s we i r (c + 1)) ∧
    win s we (i + 1) r 63 = (decide (i + 64 < we) && fbBit s r (i + 64))

/-- R84 with LAST_VALID = 0, R83, R87 to R90: ANIMATE's items are each window's FRAME and DELAY(CS), then DELAY(HOLD) if
H; NL is the final window; nothing else changes but p, ITEMS, ECMD and BUSY. -/
def Obligations.AnimateWithoutLast : Prop :=
  ∀ (s : State) (t h : Bool) (we n : Nat), s.width.toNat ≤ s.params.fbMaxCols → s.lastValid = false →
    we = (if t then min s.width.toNat 64 else s.width.toNat) → n = max (we - 64) 1 →
    ∃ (L : List Item) (nl : DeviceFrame),
      exec (.animate t h) s =
        .next { s with cmdItems := L, pendingLast := nl, pos := 0, items := 0, ecmd := .ani, busy := true } ∧
      L.length = 2 * n + h.toNat ∧
      (∀ i < n, ∃ bs : List Byte, L[2 * i]? = some (.frame bs) ∧ bs.length = 48 ∧
        (∀ r < 6, ∀ c < 64, dec bs 64 r c = (decide (i + c < we) && fbBit s r (i + c))) ∧
        L[2 * i + 1]? = some (.delay .cs s.csDelay)) ∧
      (h = true → L[2 * n]? = some (.delay .hold s.holdDelay)) ∧
      (∀ r < 6, ∀ c < 64, frameBit nl r c = (decide (n - 1 + c < we) && fbBit s r (n - 1 + c)))

/-- R84 with LAST_VALID = 1, R83, R85 to R90, in the spec's readings of U22 and U23: six intermediate frames from LASTBUF
to the first window, each with DELAY(RS); DELAY(INIT) exactly when We > 64; each further window with DELAY(CS); then
DELAY(HOLD) if H. NL is the final window; nothing else changes but p, ITEMS, ECMD and BUSY. -/
def Obligations.AnimateWithLast : Prop :=
  ∀ (s : State) (t h : Bool) (we n g : Nat), s.params.specReading → s.width.toNat ≤ s.params.fbMaxCols →
    s.lastValid = true →
    we = (if t then min s.width.toNat 64 else s.width.toNat) → n = max (we - 64) 1 → g = (if 64 < we then 1 else 0) →
    ∃ (L : List Item) (nl : DeviceFrame),
      exec (.animate t h) s =
        .next { s with cmdItems := L, pendingLast := nl, pos := 0, items := 0, ecmd := .ani, busy := true } ∧
      L.length = 2 * n + 10 + g + h.toNat ∧
      (∀ k < 6, ∃ bs : List Byte, L[2 * k]? = some (.frame bs) ∧ bs.length = 48 ∧
        (∀ r < 6, ∀ c < 64, dec bs 64 r c =
          if r < 5 - k then frameBit s.lastBuf (r + k + 1) c
          else (decide (c < we) && fbBit s (r - (5 - k)) c)) ∧
        L[2 * k + 1]? = some (.delay .rs s.rsDelay)) ∧
      (64 < we → L[12]? = some (.delay .init s.initDelay)) ∧
      (∀ i, 1 ≤ i → i < n → ∃ bs : List Byte, L[12 + g + 2 * (i - 1)]? = some (.frame bs) ∧ bs.length = 48 ∧
        (∀ r < 6, ∀ c < 64, dec bs 64 r c = (decide (i + c < we) && fbBit s r (i + c))) ∧
        L[12 + g + 2 * (i - 1) + 1]? = some (.delay .cs s.csDelay)) ∧
      (h = true → L[2 * n + 10 + g]? = some (.delay .hold s.holdDelay)) ∧
      (∀ r < 6, ∀ c < 64, frameBit nl r c = (decide (n - 1 + c < we) && fbBit s r (n - 1 + c)))

/-- R92: how many FRAME and DELAY items an accepted ANIMATE has, in the spec's readings of U22 and U23; at least 2 and
fewer than 2^32. -/
def Obligations.AnimateItemCounts : Prop :=
  ∀ (s : State) (t h : Bool) (we n g : Nat), s.params.legal → s.params.specReading →
    s.width.toNat ≤ s.params.fbMaxCols →
    we = (if t then min s.width.toNat 64 else s.width.toNat) → n = max (we - 64) 1 →
    g = (if s.lastValid = true ∧ 64 < we then 1 else 0) →
    ∃ u, exec (.animate t h) s = .next u ∧
      u.cmdItems.countP isFrame = (if s.lastValid then n + 5 else n) ∧
      u.cmdItems.countP (fun it => !isFrame it) = (if s.lastValid then n + 5 + g + h.toNat else n + h.toNat) ∧
      u.cmdItems.length = (if s.lastValid then 2 * n + 10 + g + h.toNat else 2 * n + h.toNat) ∧
      2 ≤ u.cmdItems.length ∧ u.cmdItems.length ≤ 130940

/-- U22, U23, the readings the spec lists beside its own. With five row-shift delays the list is the list with six less
its item 11, the DELAY(RS) after the sixth frame. DELAY(INIT) stands right after the curtain exactly when the gate is
open: under the steps gate, when further windows follow. -/
def Obligations.AnimateOtherReadings : Prop :=
  ∀ (s : State) (t h : Bool) (we n : Nat), s.width.toNat ≤ s.params.fbMaxCols → s.lastValid = true →
    we = (if t then min s.width.toNat 64 else s.width.toNat) → n = max (we - 64) 1 →
    ∃ u v, exec (.animate t h) s = .next u ∧
      exec (.animate t h) { s with params := { s.params with rsDelays := .six } } = .next v ∧
      u.cmdItems.length = 2 * n + 4 + (if s.params.rsDelays = .five then 5 else 6) +
        (if s.params.initGate = .width then (if 64 < we then 1 else 0) else (if 1 < n then 1 else 0)) + h.toNat ∧
      (∃ bs : List Byte, v.cmdItems[10]? = some (.frame bs)) ∧ v.cmdItems[11]? = some (.delay .rs s.rsDelay) ∧
      u.cmdItems = (if s.params.rsDelays = .five then v.cmdItems.eraseIdx 11 else v.cmdItems) ∧
      ((if s.params.initGate = .width then 64 < we else 1 < n) →
        v.cmdItems[12]? = some (.delay .init s.initDelay)) ∧
      (Item.delay .init s.initDelay ∈ u.cmdItems ↔
        if s.params.initGate = .width then 64 < we else 1 < n)

/-- R89: the final window NL is the last FRAME the command transmits, with a `last` and a single window too. -/
def Obligations.PendingLastIsTheLastFrame : Prop :=
  ∀ (s : State) (t h : Bool), s.width.toNat ≤ s.params.fbMaxCols →
    ∃ u, exec (.animate t h) s = .next u ∧ lastFrameBytes u.cmdItems = some u.pendingLast.toList

/-- R95: ANIMATE records INVALID_GEOMETRY and W exactly when W > FB_MAX_COLS, before truncation, and then changes nothing
else; with any other width it raises no error. -/
def Obligations.AnimateGeometryCheck : Prop :=
  ∀ (s : State) (t h : Bool), s.err = false →
    (s.params.fbMaxCols < s.width.toNat →
      exec (.animate t h) s =
        .next { s with err := true, errCode := .invalidGeometry, errInfo := BitVec.ofNat 32 s.width.toNat }) ∧
    (¬ s.params.fbMaxCols < s.width.toNat →
      ∃ u, exec (.animate t h) s = .next u ∧ u.err = false ∧ u.errCode = s.errCode ∧ u.errInfo = s.errInfo)

/-- R93: only the columns of the coverage are ever shown (below We when We ≤ 64, else below n + 63): two states whose FB
agree there give ANIMATE the same items and the same final window. In particular the last column of a frame of 65 or
more columns is never shown (C2). -/
def Obligations.AnimateShowsOnlyTheCoverage : Prop :=
  ∀ (s : State) (m : Memory) (d : Nat) (t h : Bool) (we n : Nat), s.width.toNat ≤ s.params.fbMaxCols →
    we = (if t then min s.width.toNat 64 else s.width.toNat) → n = max (we - 64) 1 →
    (∀ r < 6, ∀ c < (if we ≤ 64 then we else n + 63), fbBit { s with fb := m, fbDraw := d } r c = fbBit s r c) →
    ∃ u v, exec (.animate t h) s = .next u ∧ exec (.animate t h) { s with fb := m, fbDraw := d } = .next v ∧
      v.cmdItems = u.cmdItems ∧ v.pendingLast = u.pendingLast

/-- No accepted command stores a byte of FB or touches WIDTH, the delays, STATUS.BWE or Q; only LAST_BLANK writes
LASTBUF, and an unaccepted geometry leaves BUSY, ITEMS and the engine too. -/
def Obligations.CommandsLeaveTheRest : Prop :=
  ∀ (i : Instr) (s : State), ∃ t, exec i s = .next t ∧
    (∀ off, fbByte t off = fbByte s off) ∧ t.fb = s.fb ∧
    (i ≠ .lastBlank → ∀ j, frameByte t.lastBuf j = frameByte s.lastBuf j) ∧
    t.width = s.width ∧ t.rsDelay = s.rsDelay ∧ t.csDelay = s.csDelay ∧ t.initDelay = s.initDelay ∧
    t.holdDelay = s.holdDelay ∧ t.bwe = s.bwe ∧ t.q = s.q ∧ t.params = s.params ∧ t.delivered = s.delivered ∧
    (i = .encode ∨ (∃ a b, i = .animate a b) → t.lastValid = s.lastValid) ∧
    (t.err ≠ s.err → t.busy = s.busy ∧ t.items = s.items ∧ t.ecmd = s.ecmd ∧ t.cmdItems = s.cmdItems ∧
      t.pos = s.pos ∧ t.pendingLast = s.pendingLast ∧ t.lastBuf = s.lastBuf ∧ t.lastValid = s.lastValid)

/-! ### The engine and the sink -/

/-- R41, R42: an enabled engine turn puts the next item at the tail of Q, counts it, and completes the command in the
same step when it was the last; nothing else changes. -/
def Obligations.EngineStepEnqueuesTheNextItem : Prop :=
  ∀ (s : State) (it : Item), nextTurn s = .engine → s.busy = true → s.cmdItems[s.pos]? = some it →
    s.q.length < s.params.outDepth →
    (s.pos + 1 ≠ s.cmdItems.length →
      step s = .next { passTurn s with q := s.q ++ [it], pos := s.pos + 1, items := s.items + 1 }) ∧
    (s.pos + 1 = s.cmdItems.length → s.ecmd = .ani →
      step s = .next { passTurn s with
        q := s.q ++ [it], pos := s.pos + 1, items := s.items + 1,
        lastBuf := s.pendingLast, lastValid := true, busy := false, ecmd := .none }) ∧
    (s.pos + 1 = s.cmdItems.length → s.ecmd ≠ .ani →
      step s = .next { passTurn s with
        q := s.q ++ [it], pos := s.pos + 1, items := s.items + 1, busy := false, ecmd := .none })

/-- R41, R134: with Q full, or no command running, an engine turn changes nothing: back-pressure, not an error. That a
turn without a step is taken and changes nothing is the model's own (log 6). -/
def Obligations.EngineWaitsForRoom : Prop :=
  ∀ s : State, nextTurn s = .engine → (s.busy = false ∨ s.params.outDepth ≤ s.q.length) → step s = .next (passTurn s)

/-- R43: the sink takes the head of Q, the pair of item and answer is observed, and on `ok` nothing else changes; with Q
empty nothing changes. -/
def Obligations.SinkTakesTheHead : Prop :=
  ∀ (s : State) (ok : Bool), nextTurn s = .sink ok →
    (∀ it rest, s.q = it :: rest → ok = true →
      step s = .next { passTurn s with q := rest, delivered := s.delivered ++ [(it, true)] }) ∧
    (∀ it rest, s.q = it :: rest → ok = false → ∃ t, step s = .next t ∧ t.delivered = s.delivered ++ [(it, false)]) ∧
    (s.q = [] → step s = .next (passTurn s))

/-- R113: a sink failure flushes Q, aborts a running command, and records SINK_FAILURE with ERRINFO 0 unless an error is
outstanding; LASTBUF, LAST_VALID, ITEMS, WIDTH, the delays and FB stay. What NL holds after an abort is left open, since
R111 says that it is discarded. -/
def Obligations.SinkFailureAbortsAndRecords : Prop :=
  ∀ (s : State) (it : Item) (rest : List Item), nextTurn s = .sink false → s.q = it :: rest →
    (s.busy = true → s.err = false → ∃ nl : DeviceFrame,
      step s = .next { passTurn s with
        q := [], delivered := s.delivered ++ [(it, false)], busy := false, ecmd := .none, cmdItems := [], pos := 0,
        pendingLast := nl, err := true, errCode := .sinkFailure, errInfo := 0 }) ∧
    (s.busy = true → s.err = true → ∃ nl : DeviceFrame,
      step s = .next { passTurn s with
        q := [], delivered := s.delivered ++ [(it, false)], busy := false, ecmd := .none, cmdItems := [], pos := 0,
        pendingLast := nl }) ∧
    (s.busy = false → s.err = false →
      step s = .next { passTurn s with
        q := [], delivered := s.delivered ++ [(it, false)],
        err := true, errCode := .sinkFailure, errInfo := 0 }) ∧
    (s.busy = false → s.err = true →
      step s = .next { passTurn s with q := [], delivered := s.delivered ++ [(it, false)] })

/-- R58, R109, R136: whatever the interleaving of engine turns and accepting sink turns, once the command is over and Q is
empty the sink has been given exactly the items that were waiting and then the rest of L, in order, each with answer
ok. -/
def Obligations.CommandDeliversItsItemList : Prop :=
  ∀ (s t : State) (ts rest : List Turn), s.busy = true → s.turns = ts ++ rest → (∀ x ∈ ts, goesOn x = true) →
    Host.Core.run Sys2Proof.core ts.length s = .next t → t.busy = false → t.q = [] →
    t.delivered = s.delivered ++ (s.q ++ s.cmdItems.drop s.pos).map (fun it => (it, true))

/-- R134: a running command whose remaining items fit in Q completes by engine turns alone, with no sink step, and ITEMS
is then the length of its list. -/
def Obligations.CommandCompletesWithRoom : Prop :=
  ∀ (s : State) (rest : List Turn), Inv s → s.busy = true →
    s.cmdItems.length - s.pos ≤ s.params.outDepth - s.q.length →
    s.turns = List.replicate (s.cmdItems.length - s.pos) .engine ++ rest →
    ∃ t, Host.Core.run Sys2Proof.core (s.cmdItems.length - s.pos) s = .next t ∧ t.busy = false ∧
      t.items.toNat = s.cmdItems.length ∧ t.q = s.q ++ s.cmdItems.drop s.pos ∧
      (s.ecmd = .ani → t.lastBuf = s.pendingLast ∧ t.lastValid = true) ∧
      (s.ecmd = .enc → t.lastBuf = s.lastBuf ∧ t.lastValid = s.lastValid)

/-! ### The host bus -/

/-- R46 to R48, R50, R51: an access gets a BusError exactly when the map does not admit its width, alignment or offset. -/
def Obligations.BusErrorExactlyOnIllegalAccess : Prop :=
  ∀ (s : State) (off n : Nat) (v : Word),
    (memRead s off n = none ↔ ¬ legalAccess s.params off n) ∧
    (memWrite off n v s = .fault .busError ↔ ¬ legalAccess s.params off n)

/-- R15 to R18, R25 to R31: what each register reads as. -/
def Obligations.RegistersReadBack : Prop :=
  ∀ s : State, memRead s 0x000 4 = some 0x4C454446#32 ∧
    (s.params.legal → ∃ v : Word, memRead s 0x004 4 = some v ∧ v.toNat % 2 ^ 16 = s.params.fbMaxCols ∧
      v.toNat / 2 ^ 16 % 2 ^ 8 = min s.params.outDepth 255 ∧ v.toNat / 2 ^ 24 = 0) ∧
    memRead s 0x008 4 = some 0#32 ∧
    memRead s 0x010 4 = some (BitVec.ofNat 32 s.width.toNat) ∧ memRead s 0x014 4 = some s.errInfo ∧
    memRead s 0x018 4 = some s.rsDelay ∧ memRead s 0x01C 4 = some s.csDelay ∧ memRead s 0x020 4 = some s.initDelay ∧
    memRead s 0x024 4 = some s.holdDelay ∧ memRead s 0x028 4 = some s.items

/-- R19, R102: the layout of STATUS as the host reads it. -/
def Obligations.StatusLayout : Prop :=
  ∀ s : State, ∃ v : Word, memRead s 0x00C 4 = some v ∧
    v.toNat = s.busy.toNat + 2 * s.err.toNat + 4 * s.bwe.toNat + 8 * s.lastValid.toNat + 16 *
      (match s.errCode with
        | .none => 0
        | .invalidCharacter => 1
        | .invalidGeometry => 2
        | .sinkFailure => 3
        | .illegalCommand => 4)

/-- R25, R27 to R30: while BUSY = 0 a write of WIDTH stores its low 16 bits and a write of a delay register all 32, and
nothing else changes. -/
def Obligations.RegisterWritesStore : Prop :=
  ∀ (s : State) (v : Word), s.busy = false →
    (∃ t, memWrite 0x010 4 v s = .next t ∧ t = { s with width := t.width } ∧
      memRead t 0x010 4 = some (BitVec.ofNat 32 (v.toNat % 65536))) ∧
    memWrite 0x018 4 v s = .next { s with rsDelay := v } ∧ memWrite 0x01C 4 v s = .next { s with csDelay := v } ∧
    memWrite 0x020 4 v s = .next { s with initDelay := v } ∧ memWrite 0x024 4 v s = .next { s with holdDelay := v }

/-- R19, R21, R115: a write of STATUS, BUSY or not, clears ERR and BWE where it has a 1 and changes nothing else: ERRCODE
and ERRINFO stay readable, and then commands are decoded again. -/
def Obligations.StatusWriteClearsByOnes : Prop :=
  ∀ (s : State) (w : Word), ∃ t, memWrite 0x00C 4 w s = .next t ∧ t = { s with err := t.err, bwe := t.bwe } ∧
    t.err = (s.err && decide (w.toNat / 2 % 2 = 0)) ∧ t.bwe = (s.bwe && decide (w.toNat / 4 % 2 = 0)) ∧
    (w.toNat / 2 % 2 = 1 → s.busy = false → ∀ i, memWrite 0x008 4 (encode i) t = exec i t)

/-- R52: a write of ID, PARAM, ERRINFO or ITEMS is ignored, BUSY or not. -/
def Obligations.ReadOnlyWritesAreIgnored : Prop :=
  ∀ (s : State) (v : Word) (off : Nat), off = 0x000 ∨ off = 0x004 ∨ off = 0x014 ∨ off = 0x028 →
    memWrite off 4 v s = .next s

/-- R55: while BUSY = 1 a write of CMD, WIDTH, a delay register or either window sets BWE and changes nothing else;
writes of STATUS and of the read-only registers are not refused, the latter ignored; reads are never refused. -/
def Obligations.WritesWhileBusyAreRefused : Prop :=
  ∀ (s : State) (off n : Nat) (v : Word), s.busy = true →
    ((n = 4 ∧ (off = 0x008 ∨ off = 0x010 ∨ off = 0x018 ∨ off = 0x01C ∨ off = 0x020 ∨ off = 0x024)) ∨
        lastAccess off n ∨ fbAccess s.params off n →
      memWrite off n v s = .next { s with bwe := true }) ∧
    (n = 4 ∧ off = 0x00C → ∃ t, memWrite off n v s = .next t ∧ t.bwe = (s.bwe && decide (v.toNat / 4 % 2 = 0))) ∧
    (n = 4 ∧ (off = 0x000 ∨ off = 0x004 ∨ off = 0x014 ∨ off = 0x028) → memWrite off n v s = .next s) ∧
    (legalAccess s.params off n → ∃ w, memRead s off n = some w)

/-- R56: a read changes nothing but the host's own answer, and reading again gives the same value. -/
def Obligations.ReadsHaveNoSideEffects : Prop :=
  ∀ (s : State) (off n : Nat) (rest : List HostOp), nextTurn s = .host → s.hostProg = .read off n :: rest →
    legalAccess s.params off n →
    ∃ v, step s = .next (afterHost rest (.data v) s) ∧ memRead (afterHost rest (.data v) s) off n = some v

/-- R48, R49: an FB write of `n` bytes while BUSY = 0 stores byte `j` of its data at offset off + j and leaves every
other byte and everything else alone; reading the place gives the data back. -/
def Obligations.FbWriteStoresLittleEndian : Prop :=
  ∀ (s : State) (off n : Nat) (v : Word), s.busy = false → fbAccess s.params off n →
    ∃ t, memWrite off n v s = .next t ∧ t = { s with fb := t.fb } ∧
      (∀ j < n, (fbByte t (off + j)).toNat = v.toNat / 2 ^ (8 * j) % 256) ∧
      (∀ a, ¬(off ≤ a ∧ a < off + n) → fbByte t a = fbByte s a) ∧
      memRead t off n = some (BitVec.ofNat 32 (v.toNat % 2 ^ (8 * n))) ∧
      (Memory.wf s.fb → Memory.wf t.fb)

/-- R47, R49: a LAST write of `n` bytes while BUSY = 0 stores its bytes in the window and leaves every other byte and
everything else alone; reading the place gives the data back. -/
def Obligations.LastWriteStoresLittleEndian : Prop :=
  ∀ (s : State) (off n : Nat) (v : Word), s.busy = false → lastAccess off n →
    ∃ t, memWrite off n v s = .next t ∧ t = { s with lastBuf := t.lastBuf } ∧
      (∀ j < n, (frameByte t.lastBuf (off - 0x100 + j)).toNat = v.toNat / 2 ^ (8 * j) % 256) ∧
      (∀ x < 48, ¬(off - 0x100 ≤ x ∧ x < off - 0x100 + n) → frameByte t.lastBuf x = frameByte s.lastBuf x) ∧
      memRead t off n = some (BitVec.ofNat 32 (v.toNat % 2 ^ (8 * n)))

/-- R49: a read of a window assembles its bytes, the lowest offset in the low bits. -/
def Obligations.WindowReadsLittleEndian : Prop :=
  ∀ (s : State) (off n : Nat),
    (fbAccess s.params off n → ∃ v : Word, memRead s off n = some v ∧ v.toNat < 2 ^ (8 * n) ∧
      ∀ j < n, v.toNat / 2 ^ (8 * j) % 256 = (fbByte s (off + j)).toNat) ∧
    (lastAccess off n → ∃ v : Word, memRead s off n = some v ∧ v.toNat < 2 ^ (8 * n) ∧
      ∀ j < n, v.toNat / 2 ^ (8 * j) % 256 = (frameByte s.lastBuf (off - 0x100 + j)).toNat)

/-- R53: byte `b` of row `r` of FB reads as the columns 8b … 8b+7 of that row, bit `i` being column 8b + i, and writing
it sets exactly those columns. -/
def Obligations.FbByteHoldsEightColumns : Prop :=
  ∀ (s : State) (r b : Nat) (v : Word), s.params.legal → r < 6 → b < s.params.fbMaxCols / 8 →
    (∃ u : Word, memRead s (0x10000 + r * (s.params.fbMaxCols / 8) + b) 1 = some u ∧
      ∀ i < 8, u.getLsbD i = fbBit s r (8 * b + i)) ∧
    (s.busy = false → ∃ t, memWrite (0x10000 + r * (s.params.fbMaxCols / 8) + b) 1 v s = .next t ∧
      ∀ r' < 6, ∀ c < s.params.fbMaxCols,
        fbBit t r' c = if r' = r ∧ c / 8 = b then v.getLsbD (c % 8) else fbBit s r' c)

/-- R54: the bytes of the LAST window are exactly enc(LASTBUF, 64). -/
def Obligations.LastWindowIsTheWireFormat : Prop :=
  ∀ s : State, s.lastBuf.toList = enc (frameBit s.lastBuf) 64 ∧
    ∀ r < 6, ∀ b < 8, ∀ i < 8, ∃ v : Word, memRead s (0x100 + 8 * r + b) 1 = some v ∧
      v.getLsbD i = frameBit s.lastBuf r (8 * b + i)

/-- Canonical memories are equal exactly when they read the same, and a store keeps the canonical form. -/
def Obligations.MemoryIsCanonical : Prop :=
  (∀ m m' : Memory, Memory.wf m → Memory.wf m' → (∀ a, Memory.get? m a = Memory.get? m' a) → m = m') ∧
  (∀ (m : Memory) (a : Nat) (b : Byte), Memory.wf m → Memory.wf (Memory.set m a b) ∧
    ∀ x, Memory.get? (Memory.set m a b) x = if x = a then some b else Memory.get? m x)

/-! ### Whole-machine rules -/

/-- The invariant holds right after reset. That it covers State.reset's parameters rests on the spec's defaults (log 2). -/
def Obligations.ResetMeetsTheInvariant : Prop := Inv State.reset

/-- Every step keeps the invariant: legal parameters, the canonical FB inside its window, Q within OUT_DEPTH, BUSY exactly
while a command runs, no command while ERR = 1, the running command's position and item count, 48-byte ANIMATE
frames, and the error codes R102 allows. -/
def Obligations.StepKeepsTheInvariant : Prop :=
  ∀ s t : State, Inv s → step s = .next t → Inv t

/-- R116: ERR = 1 implies BUSY = 0, kept by every step. -/
def Obligations.ErrorImpliesIdle : Prop :=
  (State.reset.err = true → State.reset.busy = false) ∧
  ∀ s t : State, (s.err = true → s.busy = false) → step s = .next t → (t.err = true → t.busy = false)

/-- A step never refuses, and faults only in a host turn whose access the map does not admit. -/
def Obligations.OnlyBusErrorsStopTheMachine : Prop :=
  ∀ s : State, (∀ r, step s ≠ .refused r) ∧
    (∀ f, step s = .fault f → f = .busError ∧ nextTurn s = .host ∧ ∃ off n rest,
      ((s.hostProg = .read off n :: rest) ∨ ∃ v, s.hostProg = .write off n v :: rest) ∧
        ¬ legalAccess s.params off n)

/-- R110: while ERR = 1, no step but a reset changes ERRCODE or ERRINFO. -/
def Obligations.FirstErrorWins : Prop :=
  ∀ s t : State, s.err = true → nextTurn s ≠ .reset → step s = .next t →
    t.errCode = s.errCode ∧ t.errInfo = s.errInfo

/-- R20: BUSY is set only when an ENCODE or ANIMATE is accepted, and cleared only by the engine step that enqueues the
last item, by a sink failure, or by reset. -/
def Obligations.BusyChangesOnlySo : Prop :=
  ∀ s t : State, step s = .next t →
    (s.busy = false → t.busy = true →
      nextTurn s = .host ∧ s.err = false ∧ t.pos = 0 ∧ t.items = 0 ∧
        ∃ w rest, s.hostProg = .write 0x008 4 w :: rest ∧ (w = encode .encode ∨ ∃ a b, w = encode (.animate a b))) ∧
    (s.busy = true → t.busy = false →
      (nextTurn s = .engine ∧ s.pos + 1 = s.cmdItems.length ∧ t.pos = s.cmdItems.length) ∨
      (nextTurn s = .sink false ∧ t.err = true) ∨ nextTurn s = .reset)

/-- R23: LAST_VALID is written only by the completion of an ANIMATE, LAST_SET, LAST_BLANK, LAST_CLEAR and reset. -/
def Obligations.LastValidChangesOnlySo : Prop :=
  ∀ s t : State, step s = .next t → t.lastValid ≠ s.lastValid →
    (t.lastValid = true ∧ nextTurn s = .engine ∧ s.ecmd = .ani ∧ s.pos + 1 = s.cmdItems.length ∧
      t.lastBuf = s.pendingLast) ∨
    (t.lastValid = true ∧ nextTurn s = .host ∧ ∃ rest, s.hostProg = .write 0x008 4 (encode .lastSet) :: rest ∨
      s.hostProg = .write 0x008 4 (encode .lastBlank) :: rest) ∨
    (t.lastValid = false ∧ nextTurn s = .host ∧ ∃ rest, s.hostProg = .write 0x008 4 (encode .lastClear) :: rest) ∨
    (t.lastValid = false ∧ nextTurn s = .reset)

/-- R32, R62: LASTBUF changes only at the completion of an ANIMATE, by LAST_BLANK, by a host write of the LAST window
while BUSY = 0, or at reset. -/
def Obligations.LastBufChangesOnlySo : Prop :=
  ∀ s t : State, step s = .next t → t.lastBuf ≠ s.lastBuf →
    (nextTurn s = .engine ∧ s.ecmd = .ani ∧ s.pos + 1 = s.cmdItems.length ∧ t.lastBuf = s.pendingLast ∧
      t.lastValid = true) ∨
    (nextTurn s = .host ∧ s.busy = false ∧
      ((∃ rest, s.hostProg = .write 0x008 4 (encode .lastBlank) :: rest) ∨
        ∃ off n v rest, s.hostProg = .write off n v :: rest ∧ lastAccess off n)) ∨
    nextTurn s = .reset

/-- R34, R62: FB is written only by a host write of its window while BUSY = 0, which leaves every byte outside the written
ones; or by reset. -/
def Obligations.FbChangesOnlyByTheHost : Prop :=
  ∀ s t : State, step s = .next t → nextTurn s ≠ .reset →
    (∀ a, fbByte t a = fbByte s a) ∨
    (nextTurn s = .host ∧ s.busy = false ∧ ∃ off n v rest, s.hostProg = .write off n v :: rest ∧
      fbAccess s.params off n ∧ ∀ a, ¬(off ≤ a ∧ a < off + n) → fbByte t a = fbByte s a)

/-- R59, R37: no host step during the BUSY period changes what the running command depends on or emits. -/
def Obligations.RunningCommandIsIsolatedFromTheHost : Prop :=
  ∀ s t : State, s.busy = true → nextTurn s = .host → step s = .next t →
    t.width = s.width ∧ t.rsDelay = s.rsDelay ∧ t.csDelay = s.csDelay ∧ t.initDelay = s.initDelay ∧
    t.holdDelay = s.holdDelay ∧ t.fb = s.fb ∧ t.lastBuf = s.lastBuf ∧ t.lastValid = s.lastValid ∧
    t.busy = true ∧ t.ecmd = s.ecmd ∧ t.cmdItems = s.cmdItems ∧ t.pos = s.pos ∧ t.pendingLast = s.pendingLast ∧
    t.q = s.q ∧ t.items = s.items

/-- R31: a step that accepts an ENCODE or ANIMATE (it sets BUSY) leaves ITEMS = 0, an enabled engine step adds 1, a reset
leaves 0, and every other step leaves ITEMS as it was. -/
def Obligations.ItemsCountsEngineSteps : Prop :=
  ∀ s t : State, step s = .next t →
    (nextTurn s = .engine → s.busy = true → s.pos < s.cmdItems.length → s.q.length < s.params.outDepth →
      t.items = s.items + 1) ∧
    (s.busy = false → t.busy = true → t.items = 0) ∧
    (nextTurn s = .reset → t.items = 0) ∧
    (nextTurn s ≠ .reset →
      ¬(nextTurn s = .engine ∧ s.busy = true ∧ s.pos < s.cmdItems.length ∧ s.q.length < s.params.outDepth) →
      ¬(s.busy = false ∧ t.busy = true) → t.items = s.items)

/-- R43, R58: an engine turn and an accepting sink turn keep the whole output, delivered, waiting and still to come, in
order. -/
def Obligations.OutputOrderIsKept : Prop :=
  ∀ s t : State, goesOn (nextTurn s) = true → step s = .next t → outputStream t = outputStream s
end

