-- ==== Sys2Proof/Laws/Memory.lean ====
section
/-! SUPPORT. The bytes of the frame buffer: a read after a write, the canonical form, and that a canonical memory is
known by its reads. -/

namespace Sys2Proof.Machine

open Sys2Proof

@[simp] theorem Memory.get?_nil (a : Nat) : Memory.get? [] a = none := rfl

theorem Memory.get?_cons (k a : Nat) (b : Byte) (m : Memory) :
    Memory.get? ((k, b) :: m) a = if a = k then some b else Memory.get? m a := rfl

/-- Reading after storing one byte. -/
theorem Memory.get?_set (m : Memory) (a x : Nat) (b : Byte) :
    Memory.get? (Memory.set m a b) x = if x = a then some b else Memory.get? m x := by
  induction m with
  | nil => simp [Memory.set, Memory.get?_cons]
  | cons kc m ih =>
    obtain ⟨k, c⟩ := kc
    unfold Memory.set
    split
    · simp [Memory.get?_cons]
    · split
      · subst_vars; rw [Memory.get?_cons, Memory.get?_cons]; split <;> rfl
      · rw [Memory.get?_cons, ih, Memory.get?_cons]
        by_cases hx : x = k <;> by_cases ha : x = a <;> simp_all

/-- Which offsets a store can list. -/
theorem Memory.mem_set {m : Memory} {a : Nat} {b : Byte} {x : Host.Cell} (h : x ∈ Memory.set m a b) :
    x.1 = a ∨ x ∈ m := by
  induction m with
  | nil => simp [Memory.set] at h; simp [h]
  | cons kc m ih =>
    obtain ⟨k, c⟩ := kc
    unfold Memory.set at h
    split at h
    · rcases List.mem_cons.1 h with rfl | h <;> simp_all
    · split at h
      · rcases List.mem_cons.1 h with rfl | h <;> simp_all
      · rcases List.mem_cons.1 h with rfl | h
        · simp
        · rcases ih h with h | h <;> simp_all

/-- Storing a byte keeps the canonical form. -/
theorem Memory.set_wf {m : Memory} (h : Memory.wf m) (a : Nat) (b : Byte) : Memory.wf (Memory.set m a b) := by
  induction m with
  | nil => simp [Memory.set, Memory.wf]
  | cons kc m ih =>
    obtain ⟨k, c⟩ := kc
    simp only [Memory.wf, List.map_cons, List.pairwise_cons, List.mem_map] at h ih ⊢
    unfold Memory.set
    split
    · rename_i hlt
      simp only [List.map_cons, List.pairwise_cons, List.mem_cons, List.mem_map]
      refine ⟨?_, h.1, h.2⟩
      rintro _ (rfl | ⟨y, hy, rfl⟩)
      · exact hlt
      · have := h.1 _ ⟨y, hy, rfl⟩; omega
    · split
      · rename_i hak
        subst hak
        simpa using h
      · rename_i hlt hne
        simp only [List.map_cons, List.pairwise_cons, List.mem_map]
        refine ⟨?_, ih h.2⟩
        rintro _ ⟨y, hy, rfl⟩
        rcases Memory.mem_set hy with h1 | h1
        · omega
        · exact h.1 _ ⟨y, h1, rfl⟩

/-- Reading after storing consecutive bytes. -/
theorem Memory.get?_setBytes (bs : List Byte) (m : Memory) (a x : Nat) :
    Memory.get? (Memory.setBytes m a bs) x =
      if a ≤ x ∧ x < a + bs.length then some (bs.getD (x - a) 0) else Memory.get? m x := by
  induction bs generalizing m a with
  | nil => simp [Memory.setBytes]
  | cons b bs ih =>
    rw [Memory.setBytes, ih, Memory.get?_set, List.length_cons]
    by_cases h1 : x = a
    · subst h1; simp
    · by_cases h2 : a + 1 ≤ x ∧ x < a + 1 + bs.length
      · rw [if_pos h2, if_pos (by omega), show x - a = (x - (a + 1)) + 1 by omega]; simp
      · rw [if_neg h2, if_neg h1, if_neg (by omega)]

/-- Which offsets a store of consecutive bytes can list. -/
theorem Memory.mem_setBytes {bs : List Byte} {m : Memory} {a : Nat} {x : Host.Cell}
    (h : x ∈ Memory.setBytes m a bs) : (a ≤ x.1 ∧ x.1 < a + bs.length) ∨ x ∈ m := by
  induction bs generalizing m a with
  | nil => exact .inr h
  | cons b bs ih =>
    rcases ih h with h1 | h1
    · left; simp only [List.length_cons]; omega
    · rcases Memory.mem_set h1 with h2 | h2
      · left; simp only [List.length_cons]; omega
      · exact .inr h2

/-- Storing consecutive bytes keeps the canonical form. -/
theorem Memory.setBytes_wf (bs : List Byte) {m : Memory} (h : Memory.wf m) (a : Nat) :
    Memory.wf (Memory.setBytes m a bs) := by
  induction bs generalizing m a with
  | nil => exact h
  | cons b bs ih => exact ih (Memory.set_wf h a b) (a + 1)

/-- An offset below the first listed one is not listed. -/
theorem Memory.get?_eq_none_of_lt {m : Memory} {a : Nat} (h : ∀ c ∈ m, a < c.1) : Memory.get? m a = none := by
  induction m with
  | nil => rfl
  | cons kc m ih =>
    obtain ⟨k, c⟩ := kc
    have hk : a < k := h (k, c) (by simp)
    rw [Memory.get?_cons, if_neg (by omega)]
    exact ih fun x hx => h x (by simp [hx])

/-- The memory after reset is in canonical form. -/
theorem reset_fb_wf : Memory.wf State.reset.fb := by decide

end Sys2Proof.Machine
end

