-- ==== Sys2Proof/Laws/Packing.lean ====
section
/-! SUPPORT. The packing of bitmaps into bytes and the byte lanes of the bus, bit by bit. -/

namespace Sys2Proof.Machine

open Sys2Proof

/-- The length of rows of equal length laid end to end. -/
theorem length_flatMap_range {α : Type} (f : Nat → List α) (m n : Nat) (h : ∀ i < n, (f i).length = m) :
    ((List.range n).flatMap f).length = n * m := by
  induction n with
  | zero => simp
  | succ n ih =>
    rw [List.range_succ, List.flatMap_append, List.length_append, ih fun i hi => h i (by omega)]
    simp [h n (by omega), Nat.succ_mul]

/-- An element of rows of equal length laid end to end. -/
theorem getElem?_flatMap_range {α : Type} (f : Nat → List α) (m n : Nat) (h : ∀ i < n, (f i).length = m)
    (r g : Nat) (hr : r < n) (hg : g < m) : ((List.range n).flatMap f)[r * m + g]? = (f r)[g]? := by
  induction n with
  | zero => omega
  | succ n ih =>
    rw [List.range_succ, List.flatMap_append]
    have hl := length_flatMap_range f m n fun i hi => h i (by omega)
    rcases Nat.lt_succ_iff_lt_or_eq.1 hr with hr | rfl
    · rw [List.getElem?_append_left, ih (fun i hi => h i (by omega)) hr]
      rw [hl]
      calc r * m + g < (r + 1) * m := by rw [Nat.succ_mul]; omega
        _ ≤ n * m := Nat.mul_le_mul_right m hr
    · rw [List.getElem?_append_right (by rw [hl]; omega), hl]
      simp

/-- R75, R77: bit `i` of a packed byte is column `i` of its group. -/
theorem packByte_getLsbD (F : Bitmap) (r g i : Nat) (hi : i < 8) :
    (packByte F r g).getLsbD i = F r (8 * g + i) := by
  have key : ((List.range 8).map fun k => (F r (8 * g + k)).toNat * 2 ^ k).sum / 2 ^ i % 2 =
      (F r (8 * g + i)).toNat := by
    have hb : ∀ k, (F r (8 * g + k)).toNat ≤ 1 := fun k => Bool.toNat_le _
    have := hb 0; have := hb 1; have := hb 2; have := hb 3
    have := hb 4; have := hb 5; have := hb 6; have := hb 7
    simp only [show List.range 8 = [0, 1, 2, 3, 4, 5, 6, 7] by decide, List.map_cons, List.map_nil, List.sum_cons,
      List.sum_nil]
    interval_cases i <;> omega
  unfold packByte
  rw [BitVec.getLsbD_ofNat, Nat.testBit_eq_decide_div_mod_eq, key]
  cases F r (8 * g + i) <;> simp [hi]

/-- A byte is known by its eight bits. -/
theorem packByte_eq_of_bits (F : Bitmap) (r g : Nat) (b : Byte) (h : ∀ i < 8, F r (8 * g + i) = b.getLsbD i) :
    packByte F r g = b :=
  BitVec.eq_of_getLsbD_eq fun i hi => by rw [packByte_getLsbD F r g i hi, h i hi]

/-- R75: an encoded bitmap has 6·w/8 bytes. -/
theorem enc_length (F : Bitmap) (w : Nat) : (enc F w).length = 6 * (w / 8) :=
  length_flatMap_range _ (w / 8) 6 fun _ _ => by simp

/-- R75: where the byte of a group stands. -/
theorem enc_getElem? (F : Bitmap) (w r g : Nat) (hr : r < 6) (hg : g < w / 8) :
    (enc F w)[r * (w / 8) + g]? = some (packByte F r g) := by
  unfold enc
  rw [getElem?_flatMap_range _ (w / 8) 6 (fun _ _ => by simp) r g hr hg]
  simp [hg]

/-- Packing depends only on the bits inside the bitmap. -/
theorem enc_congr {F G : Bitmap} {w : Nat} (h : ∀ r < 6, ∀ c < 8 * (w / 8), F r c = G r c) : enc F w = enc G w := by
  unfold enc
  apply List.flatMap_congr
  intro r hr
  apply List.map_congr_left
  intro g hg
  simp only [List.mem_range] at hr hg
  exact packByte_eq_of_bits F r g _ fun i hi => by rw [packByte_getLsbD G r g i hi, h r hr _ (by omega)]

/-- A byte of a stored bitmap. -/
theorem frameByte_frameOf (F : Bitmap) (j : Nat) (hj : j < 48) :
    frameByte (frameOf F) j = packByte F (j / 8) (j % 8) := by
  simp [frameByte, frameOf, hj]

/-- R54: a stored bitmap reads back. -/
theorem frameBit_frameOf (F : Bitmap) (r c : Nat) (hr : r < 6) (hc : c < 64) : frameBit (frameOf F) r c = F r c := by
  have h1 : (8 * r + c / 8) / 8 = r := by omega
  have h2 : (8 * r + c / 8) % 8 = c / 8 := by omega
  unfold frameBit
  rw [frameByte_frameOf F _ (by omega), h1, h2, packByte_getLsbD _ _ _ _ (by omega)]
  congr 1
  omega

/-- Storing depends only on the 6 × 64 bits. -/
theorem frameOf_congr {F G : Bitmap} (h : ∀ r < 6, ∀ c < 64, F r c = G r c) : frameOf F = frameOf G := by
  unfold frameOf
  congr 1
  funext j
  exact packByte_eq_of_bits F _ _ _ fun i hi => by
    rw [packByte_getLsbD G _ _ i hi, h _ (by omega) _ (by omega)]

/-- R54: the bytes that store a bitmap are its encoding. -/
theorem frameOf_toList (F : Bitmap) : (frameOf F).toList = enc F 64 := by
  apply List.ext_getElem?
  intro j
  rcases Nat.lt_or_ge j 48 with h | h
  · have e := enc_getElem? F 64 (j / 8) (j % 8) (by omega) (by omega)
    rw [show j / 8 * (64 / 8) + j % 8 = j by omega] at e
    rw [e]
    simp [frameOf, h]
  · rw [List.getElem?_eq_none (by simpa using h), List.getElem?_eq_none (by rw [enc_length]; omega)]

@[simp] theorem frameByte_blankFrame (j : Nat) : frameByte blankFrame j = 0 := by
  unfold frameByte blankFrame
  by_cases h : j < 48 <;> simp [h]

/-- Reading after storing consecutive bytes of a device frame. -/
theorem frameByte_frameSetBytes (bs : List Byte) (f : DeviceFrame) (j x : Nat) (hx : x < 48) :
    frameByte (frameSetBytes f j bs) x =
      if j ≤ x ∧ x < j + bs.length then bs.getD (x - j) 0 else frameByte f x := by
  induction bs generalizing f j with
  | nil => simp [frameSetBytes]
  | cons b bs ih =>
    rw [frameSetBytes, ih, List.length_cons]
    have hset : frameByte (f.setIfInBounds j b) x = if x = j then b else frameByte f x := by
      unfold frameByte
      rw [Vector.getElem?_setIfInBounds]
      by_cases h : j = x
      · subst h; simp [hx]
      · simp [h, Ne.symm h]
    rw [hset]
    by_cases h1 : x = j
    · subst h1; simp
    · by_cases h2 : j + 1 ≤ x ∧ x < j + 1 + bs.length
      · rw [if_pos h2, if_pos (by omega), show x - j = (x - (j + 1)) + 1 by omega]; simp
      · rw [if_neg h2, if_neg h1, if_neg (by omega)]

@[simp] theorem splitBytes_length (n : Nat) (v : Word) : (splitBytes n v).length = n := by simp [splitBytes]

/-- R49: byte `j` of the data of a write. -/
theorem splitBytes_getD (n : Nat) (v : Word) (j : Nat) (hj : j < n) :
    (splitBytes n v).getD j 0 = v.extractLsb' (8 * j) 8 := by
  simp [splitBytes, hj]

/-- R49: the data of a read as a number. -/
theorem joinBytes_toNat (n : Nat) (f : Nat → Byte) (hn : n = 1 ∨ n = 2 ∨ n = 4) :
    (joinBytes n f).toNat = ((List.range n).map fun j => 2 ^ (8 * j) * (f j).toNat).sum := by
  unfold joinBytes
  rw [BitVec.toNat_ofNat]
  apply Nat.mod_eq_of_lt
  have := (f 0).isLt; have := (f 1).isLt; have := (f 2).isLt; have := (f 3).isLt
  rcases hn with rfl | rfl | rfl
  · simp only [show List.range 1 = [0] by decide, List.map_cons, List.map_nil, List.sum_cons, List.sum_nil]; omega
  · simp only [show List.range 2 = [0, 1] by decide, List.map_cons, List.map_nil, List.sum_cons, List.sum_nil]; omega
  · simp only [show List.range 4 = [0, 1, 2, 3] by decide, List.map_cons, List.map_nil, List.sum_cons,
      List.sum_nil]
    omega

/-- R49: the data of a one-, two- or four-byte read, byte by byte. -/
theorem joinBytes_extract (n : Nat) (f : Nat → Byte) (hn : n = 1 ∨ n = 2 ∨ n = 4) (j : Nat) (hj : j < n) :
    (joinBytes n f).extractLsb' (8 * j) 8 = f j := by
  apply BitVec.eq_of_toNat_eq
  rw [BitVec.extractLsb'_toNat, joinBytes_toNat n f hn, Nat.shiftRight_eq_div_pow]
  have := (f 0).isLt; have := (f 1).isLt; have := (f 2).isLt; have := (f 3).isLt
  rcases hn with rfl | rfl | rfl
  · simp only [show List.range 1 = [0] by decide, List.map_cons, List.map_nil, List.sum_cons, List.sum_nil]
    interval_cases j; omega
  · simp only [show List.range 2 = [0, 1] by decide, List.map_cons, List.map_nil, List.sum_cons, List.sum_nil]
    interval_cases j <;> omega
  · simp only [show List.range 4 = [0, 1, 2, 3] by decide, List.map_cons, List.map_nil, List.sum_cons,
      List.sum_nil]
    interval_cases j <;> omega

/-- R49: a read of the bytes a write of the same width stored gives the data's low bits. -/
theorem joinBytes_split (n : Nat) (v : Word) (f : Nat → Byte) (hn : n = 1 ∨ n = 2 ∨ n = 4)
    (hf : ∀ j < n, f j = v.extractLsb' (8 * j) 8) : joinBytes n f = BitVec.ofNat 32 (v.toNat % 2 ^ (8 * n)) := by
  apply BitVec.eq_of_toNat_eq
  rw [joinBytes_toNat n f hn]
  have hv := v.isLt
  have key : ∀ j < n, (f j).toNat = v.toNat / 2 ^ (8 * j) % 256 := by
    intro j hj
    rw [hf j hj, BitVec.extractLsb'_toNat, Nat.shiftRight_eq_div_pow]
  rcases hn with rfl | rfl | rfl
  · simp [List.range_succ, key]; omega
  · simp [List.range_succ, key]; omega
  · simp [List.range_succ, key]; omega

end Sys2Proof.Machine
end

