-- ==== Sys2Proof/Laws/State.lean ====
section
/-! SUPPORT. For each named update of the state, what every field of the result is: the fields it writes and the fields
it leaves. No later proof unfolds these updates. -/

namespace Sys2Proof.Machine

open Sys2Proof

/-! ### `passTurn` -/

@[simp] theorem passTurn_busy (s : State) : (passTurn s).busy = s.busy := by unfold passTurn; split <;> rfl
@[simp] theorem passTurn_err (s : State) : (passTurn s).err = s.err := by unfold passTurn; split <;> rfl
@[simp] theorem passTurn_bwe (s : State) : (passTurn s).bwe = s.bwe := by unfold passTurn; split <;> rfl
@[simp] theorem passTurn_lastValid (s : State) : (passTurn s).lastValid = s.lastValid := by unfold passTurn; split <;> rfl
@[simp] theorem passTurn_errCode (s : State) : (passTurn s).errCode = s.errCode := by unfold passTurn; split <;> rfl
@[simp] theorem passTurn_width (s : State) : (passTurn s).width = s.width := by unfold passTurn; split <;> rfl
@[simp] theorem passTurn_errInfo (s : State) : (passTurn s).errInfo = s.errInfo := by unfold passTurn; split <;> rfl
@[simp] theorem passTurn_rsDelay (s : State) : (passTurn s).rsDelay = s.rsDelay := by unfold passTurn; split <;> rfl
@[simp] theorem passTurn_csDelay (s : State) : (passTurn s).csDelay = s.csDelay := by unfold passTurn; split <;> rfl
@[simp] theorem passTurn_initDelay (s : State) : (passTurn s).initDelay = s.initDelay := by unfold passTurn; split <;> rfl
@[simp] theorem passTurn_holdDelay (s : State) : (passTurn s).holdDelay = s.holdDelay := by unfold passTurn; split <;> rfl
@[simp] theorem passTurn_items (s : State) : (passTurn s).items = s.items := by unfold passTurn; split <;> rfl
@[simp] theorem passTurn_lastBuf (s : State) : (passTurn s).lastBuf = s.lastBuf := by unfold passTurn; split <;> rfl
@[simp] theorem passTurn_fb (s : State) : (passTurn s).fb = s.fb := by unfold passTurn; split <;> rfl
@[simp] theorem passTurn_q (s : State) : (passTurn s).q = s.q := by unfold passTurn; split <;> rfl
@[simp] theorem passTurn_ecmd (s : State) : (passTurn s).ecmd = s.ecmd := by unfold passTurn; split <;> rfl
@[simp] theorem passTurn_cmdItems (s : State) : (passTurn s).cmdItems = s.cmdItems := by unfold passTurn; split <;> rfl
@[simp] theorem passTurn_pos (s : State) : (passTurn s).pos = s.pos := by unfold passTurn; split <;> rfl
@[simp] theorem passTurn_pendingLast (s : State) : (passTurn s).pendingLast = s.pendingLast := by unfold passTurn; split <;> rfl
@[simp] theorem passTurn_params (s : State) : (passTurn s).params = s.params := by unfold passTurn; split <;> rfl
@[simp] theorem passTurn_fbDraw (s : State) : (passTurn s).fbDraw = s.fbDraw := by unfold passTurn; split <;> rfl
@[simp] theorem passTurn_hostProg (s : State) : (passTurn s).hostProg = s.hostProg := by unfold passTurn; split <;> rfl
@[simp] theorem passTurn_busResp (s : State) : (passTurn s).busResp = s.busResp := by unfold passTurn; split <;> rfl
@[simp] theorem passTurn_delivered (s : State) : (passTurn s).delivered = s.delivered := by unfold passTurn; split <;> rfl

/-! ### `setBwe` -/

@[simp] theorem setBwe_busy (s : State) : (setBwe s).busy = s.busy := rfl
@[simp] theorem setBwe_err (s : State) : (setBwe s).err = s.err := rfl
@[simp] theorem setBwe_bwe (s : State) : (setBwe s).bwe = true := rfl
@[simp] theorem setBwe_lastValid (s : State) : (setBwe s).lastValid = s.lastValid := rfl
@[simp] theorem setBwe_errCode (s : State) : (setBwe s).errCode = s.errCode := rfl
@[simp] theorem setBwe_width (s : State) : (setBwe s).width = s.width := rfl
@[simp] theorem setBwe_errInfo (s : State) : (setBwe s).errInfo = s.errInfo := rfl
@[simp] theorem setBwe_rsDelay (s : State) : (setBwe s).rsDelay = s.rsDelay := rfl
@[simp] theorem setBwe_csDelay (s : State) : (setBwe s).csDelay = s.csDelay := rfl
@[simp] theorem setBwe_initDelay (s : State) : (setBwe s).initDelay = s.initDelay := rfl
@[simp] theorem setBwe_holdDelay (s : State) : (setBwe s).holdDelay = s.holdDelay := rfl
@[simp] theorem setBwe_items (s : State) : (setBwe s).items = s.items := rfl
@[simp] theorem setBwe_lastBuf (s : State) : (setBwe s).lastBuf = s.lastBuf := rfl
@[simp] theorem setBwe_fb (s : State) : (setBwe s).fb = s.fb := rfl
@[simp] theorem setBwe_q (s : State) : (setBwe s).q = s.q := rfl
@[simp] theorem setBwe_ecmd (s : State) : (setBwe s).ecmd = s.ecmd := rfl
@[simp] theorem setBwe_cmdItems (s : State) : (setBwe s).cmdItems = s.cmdItems := rfl
@[simp] theorem setBwe_pos (s : State) : (setBwe s).pos = s.pos := rfl
@[simp] theorem setBwe_pendingLast (s : State) : (setBwe s).pendingLast = s.pendingLast := rfl
@[simp] theorem setBwe_params (s : State) : (setBwe s).params = s.params := rfl
@[simp] theorem setBwe_fbDraw (s : State) : (setBwe s).fbDraw = s.fbDraw := rfl
@[simp] theorem setBwe_hostProg (s : State) : (setBwe s).hostProg = s.hostProg := rfl
@[simp] theorem setBwe_busResp (s : State) : (setBwe s).busResp = s.busResp := rfl
@[simp] theorem setBwe_delivered (s : State) : (setBwe s).delivered = s.delivered := rfl
@[simp] theorem setBwe_turns (s : State) : (setBwe s).turns = s.turns := rfl
@[simp] theorem setBwe_drawn (s : State) : (setBwe s).drawn = s.drawn := rfl

/-! ### `acknowledge` -/

@[simp] theorem acknowledge_busy (w : Word) (s : State) : (acknowledge w s).busy = s.busy := rfl
@[simp] theorem acknowledge_err (w : Word) (s : State) : (acknowledge w s).err = (s.err && !w.getLsbD 1) := rfl
@[simp] theorem acknowledge_bwe (w : Word) (s : State) : (acknowledge w s).bwe = (s.bwe && !w.getLsbD 2) := rfl
@[simp] theorem acknowledge_lastValid (w : Word) (s : State) : (acknowledge w s).lastValid = s.lastValid := rfl
@[simp] theorem acknowledge_errCode (w : Word) (s : State) : (acknowledge w s).errCode = s.errCode := rfl
@[simp] theorem acknowledge_width (w : Word) (s : State) : (acknowledge w s).width = s.width := rfl
@[simp] theorem acknowledge_errInfo (w : Word) (s : State) : (acknowledge w s).errInfo = s.errInfo := rfl
@[simp] theorem acknowledge_rsDelay (w : Word) (s : State) : (acknowledge w s).rsDelay = s.rsDelay := rfl
@[simp] theorem acknowledge_csDelay (w : Word) (s : State) : (acknowledge w s).csDelay = s.csDelay := rfl
@[simp] theorem acknowledge_initDelay (w : Word) (s : State) : (acknowledge w s).initDelay = s.initDelay := rfl
@[simp] theorem acknowledge_holdDelay (w : Word) (s : State) : (acknowledge w s).holdDelay = s.holdDelay := rfl
@[simp] theorem acknowledge_items (w : Word) (s : State) : (acknowledge w s).items = s.items := rfl
@[simp] theorem acknowledge_lastBuf (w : Word) (s : State) : (acknowledge w s).lastBuf = s.lastBuf := rfl
@[simp] theorem acknowledge_fb (w : Word) (s : State) : (acknowledge w s).fb = s.fb := rfl
@[simp] theorem acknowledge_q (w : Word) (s : State) : (acknowledge w s).q = s.q := rfl
@[simp] theorem acknowledge_ecmd (w : Word) (s : State) : (acknowledge w s).ecmd = s.ecmd := rfl
@[simp] theorem acknowledge_cmdItems (w : Word) (s : State) : (acknowledge w s).cmdItems = s.cmdItems := rfl
@[simp] theorem acknowledge_pos (w : Word) (s : State) : (acknowledge w s).pos = s.pos := rfl
@[simp] theorem acknowledge_pendingLast (w : Word) (s : State) : (acknowledge w s).pendingLast = s.pendingLast := rfl
@[simp] theorem acknowledge_params (w : Word) (s : State) : (acknowledge w s).params = s.params := rfl
@[simp] theorem acknowledge_fbDraw (w : Word) (s : State) : (acknowledge w s).fbDraw = s.fbDraw := rfl
@[simp] theorem acknowledge_hostProg (w : Word) (s : State) : (acknowledge w s).hostProg = s.hostProg := rfl
@[simp] theorem acknowledge_busResp (w : Word) (s : State) : (acknowledge w s).busResp = s.busResp := rfl
@[simp] theorem acknowledge_delivered (w : Word) (s : State) : (acknowledge w s).delivered = s.delivered := rfl
@[simp] theorem acknowledge_turns (w : Word) (s : State) : (acknowledge w s).turns = s.turns := rfl
@[simp] theorem acknowledge_drawn (w : Word) (s : State) : (acknowledge w s).drawn = s.drawn := rfl

/-! ### `errorEntry` -/

@[simp] theorem errorEntry_busy (c : ErrCode) (w : Word) (s : State) : (errorEntry c w s).busy = s.busy := by unfold errorEntry; split <;> simp_all
@[simp] theorem errorEntry_err (c : ErrCode) (w : Word) (s : State) : (errorEntry c w s).err = true := by unfold errorEntry; split <;> simp_all
@[simp] theorem errorEntry_bwe (c : ErrCode) (w : Word) (s : State) : (errorEntry c w s).bwe = s.bwe := by unfold errorEntry; split <;> simp_all
@[simp] theorem errorEntry_lastValid (c : ErrCode) (w : Word) (s : State) : (errorEntry c w s).lastValid = s.lastValid := by unfold errorEntry; split <;> simp_all
@[simp] theorem errorEntry_errCode (c : ErrCode) (w : Word) (s : State) : (errorEntry c w s).errCode = (if s.err then s.errCode else c) := by unfold errorEntry; split <;> simp_all
@[simp] theorem errorEntry_width (c : ErrCode) (w : Word) (s : State) : (errorEntry c w s).width = s.width := by unfold errorEntry; split <;> simp_all
@[simp] theorem errorEntry_errInfo (c : ErrCode) (w : Word) (s : State) : (errorEntry c w s).errInfo = (if s.err then s.errInfo else w) := by unfold errorEntry; split <;> simp_all
@[simp] theorem errorEntry_rsDelay (c : ErrCode) (w : Word) (s : State) : (errorEntry c w s).rsDelay = s.rsDelay := by unfold errorEntry; split <;> simp_all
@[simp] theorem errorEntry_csDelay (c : ErrCode) (w : Word) (s : State) : (errorEntry c w s).csDelay = s.csDelay := by unfold errorEntry; split <;> simp_all
@[simp] theorem errorEntry_initDelay (c : ErrCode) (w : Word) (s : State) : (errorEntry c w s).initDelay = s.initDelay := by unfold errorEntry; split <;> simp_all
@[simp] theorem errorEntry_holdDelay (c : ErrCode) (w : Word) (s : State) : (errorEntry c w s).holdDelay = s.holdDelay := by unfold errorEntry; split <;> simp_all
@[simp] theorem errorEntry_items (c : ErrCode) (w : Word) (s : State) : (errorEntry c w s).items = s.items := by unfold errorEntry; split <;> simp_all
@[simp] theorem errorEntry_lastBuf (c : ErrCode) (w : Word) (s : State) : (errorEntry c w s).lastBuf = s.lastBuf := by unfold errorEntry; split <;> simp_all
@[simp] theorem errorEntry_fb (c : ErrCode) (w : Word) (s : State) : (errorEntry c w s).fb = s.fb := by unfold errorEntry; split <;> simp_all
@[simp] theorem errorEntry_q (c : ErrCode) (w : Word) (s : State) : (errorEntry c w s).q = s.q := by unfold errorEntry; split <;> simp_all
@[simp] theorem errorEntry_ecmd (c : ErrCode) (w : Word) (s : State) : (errorEntry c w s).ecmd = s.ecmd := by unfold errorEntry; split <;> simp_all
@[simp] theorem errorEntry_cmdItems (c : ErrCode) (w : Word) (s : State) : (errorEntry c w s).cmdItems = s.cmdItems := by unfold errorEntry; split <;> simp_all
@[simp] theorem errorEntry_pos (c : ErrCode) (w : Word) (s : State) : (errorEntry c w s).pos = s.pos := by unfold errorEntry; split <;> simp_all
@[simp] theorem errorEntry_pendingLast (c : ErrCode) (w : Word) (s : State) : (errorEntry c w s).pendingLast = s.pendingLast := by unfold errorEntry; split <;> simp_all
@[simp] theorem errorEntry_params (c : ErrCode) (w : Word) (s : State) : (errorEntry c w s).params = s.params := by unfold errorEntry; split <;> simp_all
@[simp] theorem errorEntry_fbDraw (c : ErrCode) (w : Word) (s : State) : (errorEntry c w s).fbDraw = s.fbDraw := by unfold errorEntry; split <;> simp_all
@[simp] theorem errorEntry_hostProg (c : ErrCode) (w : Word) (s : State) : (errorEntry c w s).hostProg = s.hostProg := by unfold errorEntry; split <;> simp_all
@[simp] theorem errorEntry_busResp (c : ErrCode) (w : Word) (s : State) : (errorEntry c w s).busResp = s.busResp := by unfold errorEntry; split <;> simp_all
@[simp] theorem errorEntry_delivered (c : ErrCode) (w : Word) (s : State) : (errorEntry c w s).delivered = s.delivered := by unfold errorEntry; split <;> simp_all
@[simp] theorem errorEntry_turns (c : ErrCode) (w : Word) (s : State) : (errorEntry c w s).turns = s.turns := by unfold errorEntry; split <;> simp_all
@[simp] theorem errorEntry_drawn (c : ErrCode) (w : Word) (s : State) : (errorEntry c w s).drawn = s.drawn := by unfold errorEntry; split <;> simp_all

/-! ### `abort` -/

@[simp] theorem abort_busy (s : State) : (abort s).busy = false := rfl
@[simp] theorem abort_err (s : State) : (abort s).err = s.err := rfl
@[simp] theorem abort_bwe (s : State) : (abort s).bwe = s.bwe := rfl
@[simp] theorem abort_lastValid (s : State) : (abort s).lastValid = s.lastValid := rfl
@[simp] theorem abort_errCode (s : State) : (abort s).errCode = s.errCode := rfl
@[simp] theorem abort_width (s : State) : (abort s).width = s.width := rfl
@[simp] theorem abort_errInfo (s : State) : (abort s).errInfo = s.errInfo := rfl
@[simp] theorem abort_rsDelay (s : State) : (abort s).rsDelay = s.rsDelay := rfl
@[simp] theorem abort_csDelay (s : State) : (abort s).csDelay = s.csDelay := rfl
@[simp] theorem abort_initDelay (s : State) : (abort s).initDelay = s.initDelay := rfl
@[simp] theorem abort_holdDelay (s : State) : (abort s).holdDelay = s.holdDelay := rfl
@[simp] theorem abort_items (s : State) : (abort s).items = s.items := rfl
@[simp] theorem abort_lastBuf (s : State) : (abort s).lastBuf = s.lastBuf := rfl
@[simp] theorem abort_fb (s : State) : (abort s).fb = s.fb := rfl
@[simp] theorem abort_q (s : State) : (abort s).q = s.q := rfl
@[simp] theorem abort_ecmd (s : State) : (abort s).ecmd = .none := rfl
@[simp] theorem abort_cmdItems (s : State) : (abort s).cmdItems = [] := rfl
@[simp] theorem abort_pos (s : State) : (abort s).pos = 0 := rfl
@[simp] theorem abort_pendingLast (s : State) : (abort s).pendingLast = s.pendingLast := rfl
@[simp] theorem abort_params (s : State) : (abort s).params = s.params := rfl
@[simp] theorem abort_fbDraw (s : State) : (abort s).fbDraw = s.fbDraw := rfl
@[simp] theorem abort_hostProg (s : State) : (abort s).hostProg = s.hostProg := rfl
@[simp] theorem abort_busResp (s : State) : (abort s).busResp = s.busResp := rfl
@[simp] theorem abort_delivered (s : State) : (abort s).delivered = s.delivered := rfl
@[simp] theorem abort_turns (s : State) : (abort s).turns = s.turns := rfl
@[simp] theorem abort_drawn (s : State) : (abort s).drawn = s.drawn := rfl

/-! ### `accept` -/

@[simp] theorem accept_busy (c : EngineCmd) (l : List Item) (s : State) : (accept c l s).busy = true := rfl
@[simp] theorem accept_err (c : EngineCmd) (l : List Item) (s : State) : (accept c l s).err = s.err := rfl
@[simp] theorem accept_bwe (c : EngineCmd) (l : List Item) (s : State) : (accept c l s).bwe = s.bwe := rfl
@[simp] theorem accept_lastValid (c : EngineCmd) (l : List Item) (s : State) : (accept c l s).lastValid = s.lastValid := rfl
@[simp] theorem accept_errCode (c : EngineCmd) (l : List Item) (s : State) : (accept c l s).errCode = s.errCode := rfl
@[simp] theorem accept_width (c : EngineCmd) (l : List Item) (s : State) : (accept c l s).width = s.width := rfl
@[simp] theorem accept_errInfo (c : EngineCmd) (l : List Item) (s : State) : (accept c l s).errInfo = s.errInfo := rfl
@[simp] theorem accept_rsDelay (c : EngineCmd) (l : List Item) (s : State) : (accept c l s).rsDelay = s.rsDelay := rfl
@[simp] theorem accept_csDelay (c : EngineCmd) (l : List Item) (s : State) : (accept c l s).csDelay = s.csDelay := rfl
@[simp] theorem accept_initDelay (c : EngineCmd) (l : List Item) (s : State) : (accept c l s).initDelay = s.initDelay := rfl
@[simp] theorem accept_holdDelay (c : EngineCmd) (l : List Item) (s : State) : (accept c l s).holdDelay = s.holdDelay := rfl
@[simp] theorem accept_items (c : EngineCmd) (l : List Item) (s : State) : (accept c l s).items = 0 := rfl
@[simp] theorem accept_lastBuf (c : EngineCmd) (l : List Item) (s : State) : (accept c l s).lastBuf = s.lastBuf := rfl
@[simp] theorem accept_fb (c : EngineCmd) (l : List Item) (s : State) : (accept c l s).fb = s.fb := rfl
@[simp] theorem accept_q (c : EngineCmd) (l : List Item) (s : State) : (accept c l s).q = s.q := rfl
@[simp] theorem accept_ecmd (c : EngineCmd) (l : List Item) (s : State) : (accept c l s).ecmd = c := rfl
@[simp] theorem accept_cmdItems (c : EngineCmd) (l : List Item) (s : State) : (accept c l s).cmdItems = l := rfl
@[simp] theorem accept_pos (c : EngineCmd) (l : List Item) (s : State) : (accept c l s).pos = 0 := rfl
@[simp] theorem accept_pendingLast (c : EngineCmd) (l : List Item) (s : State) : (accept c l s).pendingLast = s.pendingLast := rfl
@[simp] theorem accept_params (c : EngineCmd) (l : List Item) (s : State) : (accept c l s).params = s.params := rfl
@[simp] theorem accept_fbDraw (c : EngineCmd) (l : List Item) (s : State) : (accept c l s).fbDraw = s.fbDraw := rfl
@[simp] theorem accept_hostProg (c : EngineCmd) (l : List Item) (s : State) : (accept c l s).hostProg = s.hostProg := rfl
@[simp] theorem accept_busResp (c : EngineCmd) (l : List Item) (s : State) : (accept c l s).busResp = s.busResp := rfl
@[simp] theorem accept_delivered (c : EngineCmd) (l : List Item) (s : State) : (accept c l s).delivered = s.delivered := rfl
@[simp] theorem accept_turns (c : EngineCmd) (l : List Item) (s : State) : (accept c l s).turns = s.turns := rfl
@[simp] theorem accept_drawn (c : EngineCmd) (l : List Item) (s : State) : (accept c l s).drawn = s.drawn := rfl

/-! ### `complete` -/

@[simp] theorem complete_busy (s : State) : (complete s).busy = false := rfl
@[simp] theorem complete_err (s : State) : (complete s).err = s.err := by unfold complete storeLast; split <;> rfl
@[simp] theorem complete_bwe (s : State) : (complete s).bwe = s.bwe := by unfold complete storeLast; split <;> rfl
@[simp] theorem complete_lastValid (s : State) : (complete s).lastValid = (if s.ecmd = .ani then true else s.lastValid) := by unfold complete storeLast; split <;> simp_all
@[simp] theorem complete_errCode (s : State) : (complete s).errCode = s.errCode := by unfold complete storeLast; split <;> rfl
@[simp] theorem complete_width (s : State) : (complete s).width = s.width := by unfold complete storeLast; split <;> rfl
@[simp] theorem complete_errInfo (s : State) : (complete s).errInfo = s.errInfo := by unfold complete storeLast; split <;> rfl
@[simp] theorem complete_rsDelay (s : State) : (complete s).rsDelay = s.rsDelay := by unfold complete storeLast; split <;> rfl
@[simp] theorem complete_csDelay (s : State) : (complete s).csDelay = s.csDelay := by unfold complete storeLast; split <;> rfl
@[simp] theorem complete_initDelay (s : State) : (complete s).initDelay = s.initDelay := by unfold complete storeLast; split <;> rfl
@[simp] theorem complete_holdDelay (s : State) : (complete s).holdDelay = s.holdDelay := by unfold complete storeLast; split <;> rfl
@[simp] theorem complete_items (s : State) : (complete s).items = s.items := by unfold complete storeLast; split <;> rfl
@[simp] theorem complete_lastBuf (s : State) : (complete s).lastBuf = (if s.ecmd = .ani then s.pendingLast else s.lastBuf) := by unfold complete storeLast; split <;> simp_all
@[simp] theorem complete_fb (s : State) : (complete s).fb = s.fb := by unfold complete storeLast; split <;> rfl
@[simp] theorem complete_q (s : State) : (complete s).q = s.q := by unfold complete storeLast; split <;> rfl
@[simp] theorem complete_ecmd (s : State) : (complete s).ecmd = .none := rfl
@[simp] theorem complete_cmdItems (s : State) : (complete s).cmdItems = s.cmdItems := by unfold complete storeLast; split <;> rfl
@[simp] theorem complete_pos (s : State) : (complete s).pos = s.pos := by unfold complete storeLast; split <;> rfl
@[simp] theorem complete_pendingLast (s : State) : (complete s).pendingLast = s.pendingLast := by unfold complete storeLast; split <;> rfl
@[simp] theorem complete_params (s : State) : (complete s).params = s.params := by unfold complete storeLast; split <;> rfl
@[simp] theorem complete_fbDraw (s : State) : (complete s).fbDraw = s.fbDraw := by unfold complete storeLast; split <;> rfl
@[simp] theorem complete_hostProg (s : State) : (complete s).hostProg = s.hostProg := by unfold complete storeLast; split <;> rfl
@[simp] theorem complete_busResp (s : State) : (complete s).busResp = s.busResp := by unfold complete storeLast; split <;> rfl
@[simp] theorem complete_delivered (s : State) : (complete s).delivered = s.delivered := by unfold complete storeLast; split <;> rfl
@[simp] theorem complete_turns (s : State) : (complete s).turns = s.turns := by unfold complete storeLast; split <;> rfl
@[simp] theorem complete_drawn (s : State) : (complete s).drawn = s.drawn := by unfold complete storeLast; split <;> rfl

/-! ### `flushQueue` and `abortIfBusy` -/

@[simp] theorem flushQueue_busy (s : State) : (flushQueue s).busy = s.busy := rfl
@[simp] theorem flushQueue_err (s : State) : (flushQueue s).err = s.err := rfl
@[simp] theorem flushQueue_bwe (s : State) : (flushQueue s).bwe = s.bwe := rfl
@[simp] theorem flushQueue_lastValid (s : State) : (flushQueue s).lastValid = s.lastValid := rfl
@[simp] theorem flushQueue_errCode (s : State) : (flushQueue s).errCode = s.errCode := rfl
@[simp] theorem flushQueue_width (s : State) : (flushQueue s).width = s.width := rfl
@[simp] theorem flushQueue_errInfo (s : State) : (flushQueue s).errInfo = s.errInfo := rfl
@[simp] theorem flushQueue_rsDelay (s : State) : (flushQueue s).rsDelay = s.rsDelay := rfl
@[simp] theorem flushQueue_csDelay (s : State) : (flushQueue s).csDelay = s.csDelay := rfl
@[simp] theorem flushQueue_initDelay (s : State) : (flushQueue s).initDelay = s.initDelay := rfl
@[simp] theorem flushQueue_holdDelay (s : State) : (flushQueue s).holdDelay = s.holdDelay := rfl
@[simp] theorem flushQueue_items (s : State) : (flushQueue s).items = s.items := rfl
@[simp] theorem flushQueue_lastBuf (s : State) : (flushQueue s).lastBuf = s.lastBuf := rfl
@[simp] theorem flushQueue_fb (s : State) : (flushQueue s).fb = s.fb := rfl
@[simp] theorem flushQueue_q (s : State) : (flushQueue s).q = [] := rfl
@[simp] theorem flushQueue_ecmd (s : State) : (flushQueue s).ecmd = s.ecmd := rfl
@[simp] theorem flushQueue_cmdItems (s : State) : (flushQueue s).cmdItems = s.cmdItems := rfl
@[simp] theorem flushQueue_pos (s : State) : (flushQueue s).pos = s.pos := rfl
@[simp] theorem flushQueue_pendingLast (s : State) : (flushQueue s).pendingLast = s.pendingLast := rfl
@[simp] theorem flushQueue_params (s : State) : (flushQueue s).params = s.params := rfl
@[simp] theorem flushQueue_fbDraw (s : State) : (flushQueue s).fbDraw = s.fbDraw := rfl
@[simp] theorem flushQueue_hostProg (s : State) : (flushQueue s).hostProg = s.hostProg := rfl
@[simp] theorem flushQueue_busResp (s : State) : (flushQueue s).busResp = s.busResp := rfl
@[simp] theorem flushQueue_delivered (s : State) : (flushQueue s).delivered = s.delivered := rfl
@[simp] theorem flushQueue_turns (s : State) : (flushQueue s).turns = s.turns := rfl
@[simp] theorem flushQueue_drawn (s : State) : (flushQueue s).drawn = s.drawn := rfl

@[simp] theorem abortIfBusy_busy (s : State) : (abortIfBusy s).busy = false := by unfold abortIfBusy; split <;> simp_all
@[simp] theorem abortIfBusy_err (s : State) : (abortIfBusy s).err = s.err := by unfold abortIfBusy; split <;> simp_all
@[simp] theorem abortIfBusy_bwe (s : State) : (abortIfBusy s).bwe = s.bwe := by unfold abortIfBusy; split <;> simp_all
@[simp] theorem abortIfBusy_lastValid (s : State) : (abortIfBusy s).lastValid = s.lastValid := by unfold abortIfBusy; split <;> simp_all
@[simp] theorem abortIfBusy_errCode (s : State) : (abortIfBusy s).errCode = s.errCode := by unfold abortIfBusy; split <;> simp_all
@[simp] theorem abortIfBusy_width (s : State) : (abortIfBusy s).width = s.width := by unfold abortIfBusy; split <;> simp_all
@[simp] theorem abortIfBusy_errInfo (s : State) : (abortIfBusy s).errInfo = s.errInfo := by unfold abortIfBusy; split <;> simp_all
@[simp] theorem abortIfBusy_rsDelay (s : State) : (abortIfBusy s).rsDelay = s.rsDelay := by unfold abortIfBusy; split <;> simp_all
@[simp] theorem abortIfBusy_csDelay (s : State) : (abortIfBusy s).csDelay = s.csDelay := by unfold abortIfBusy; split <;> simp_all
@[simp] theorem abortIfBusy_initDelay (s : State) : (abortIfBusy s).initDelay = s.initDelay := by unfold abortIfBusy; split <;> simp_all
@[simp] theorem abortIfBusy_holdDelay (s : State) : (abortIfBusy s).holdDelay = s.holdDelay := by unfold abortIfBusy; split <;> simp_all
@[simp] theorem abortIfBusy_items (s : State) : (abortIfBusy s).items = s.items := by unfold abortIfBusy; split <;> simp_all
@[simp] theorem abortIfBusy_lastBuf (s : State) : (abortIfBusy s).lastBuf = s.lastBuf := by unfold abortIfBusy; split <;> simp_all
@[simp] theorem abortIfBusy_fb (s : State) : (abortIfBusy s).fb = s.fb := by unfold abortIfBusy; split <;> simp_all
@[simp] theorem abortIfBusy_q (s : State) : (abortIfBusy s).q = s.q := by unfold abortIfBusy; split <;> simp_all
@[simp] theorem abortIfBusy_ecmd (s : State) : (abortIfBusy s).ecmd = (if s.busy then .none else s.ecmd) := by unfold abortIfBusy; split <;> simp_all
@[simp] theorem abortIfBusy_cmdItems (s : State) : (abortIfBusy s).cmdItems = (if s.busy then [] else s.cmdItems) := by unfold abortIfBusy; split <;> simp_all
@[simp] theorem abortIfBusy_pos (s : State) : (abortIfBusy s).pos = (if s.busy then 0 else s.pos) := by unfold abortIfBusy; split <;> simp_all
@[simp] theorem abortIfBusy_pendingLast (s : State) : (abortIfBusy s).pendingLast = s.pendingLast := by unfold abortIfBusy; split <;> simp_all
@[simp] theorem abortIfBusy_params (s : State) : (abortIfBusy s).params = s.params := by unfold abortIfBusy; split <;> simp_all
@[simp] theorem abortIfBusy_fbDraw (s : State) : (abortIfBusy s).fbDraw = s.fbDraw := by unfold abortIfBusy; split <;> simp_all
@[simp] theorem abortIfBusy_hostProg (s : State) : (abortIfBusy s).hostProg = s.hostProg := by unfold abortIfBusy; split <;> simp_all
@[simp] theorem abortIfBusy_busResp (s : State) : (abortIfBusy s).busResp = s.busResp := by unfold abortIfBusy; split <;> simp_all
@[simp] theorem abortIfBusy_delivered (s : State) : (abortIfBusy s).delivered = s.delivered := by unfold abortIfBusy; split <;> simp_all
@[simp] theorem abortIfBusy_turns (s : State) : (abortIfBusy s).turns = s.turns := by unfold abortIfBusy; split <;> simp_all
@[simp] theorem abortIfBusy_drawn (s : State) : (abortIfBusy s).drawn = s.drawn := by unfold abortIfBusy; split <;> simp_all

/-! ### `sinkFailure` -/

@[simp] theorem sinkFailure_busy (s : State) : (sinkFailure s).busy = false := by simp [sinkFailure]
@[simp] theorem sinkFailure_err (s : State) : (sinkFailure s).err = true := by simp [sinkFailure]
@[simp] theorem sinkFailure_bwe (s : State) : (sinkFailure s).bwe = s.bwe := by simp [sinkFailure]
@[simp] theorem sinkFailure_lastValid (s : State) : (sinkFailure s).lastValid = s.lastValid := by simp [sinkFailure]
@[simp] theorem sinkFailure_errCode (s : State) : (sinkFailure s).errCode = (if s.err then s.errCode else .sinkFailure) := by simp [sinkFailure]
@[simp] theorem sinkFailure_width (s : State) : (sinkFailure s).width = s.width := by simp [sinkFailure]
@[simp] theorem sinkFailure_errInfo (s : State) : (sinkFailure s).errInfo = (if s.err then s.errInfo else 0) := by simp [sinkFailure]
@[simp] theorem sinkFailure_rsDelay (s : State) : (sinkFailure s).rsDelay = s.rsDelay := by simp [sinkFailure]
@[simp] theorem sinkFailure_csDelay (s : State) : (sinkFailure s).csDelay = s.csDelay := by simp [sinkFailure]
@[simp] theorem sinkFailure_initDelay (s : State) : (sinkFailure s).initDelay = s.initDelay := by simp [sinkFailure]
@[simp] theorem sinkFailure_holdDelay (s : State) : (sinkFailure s).holdDelay = s.holdDelay := by simp [sinkFailure]
@[simp] theorem sinkFailure_items (s : State) : (sinkFailure s).items = s.items := by simp [sinkFailure]
@[simp] theorem sinkFailure_lastBuf (s : State) : (sinkFailure s).lastBuf = s.lastBuf := by simp [sinkFailure]
@[simp] theorem sinkFailure_fb (s : State) : (sinkFailure s).fb = s.fb := by simp [sinkFailure]
@[simp] theorem sinkFailure_q (s : State) : (sinkFailure s).q = [] := by simp [sinkFailure]
@[simp] theorem sinkFailure_ecmd (s : State) : (sinkFailure s).ecmd = (if s.busy then .none else s.ecmd) := by simp [sinkFailure]; rfl
@[simp] theorem sinkFailure_cmdItems (s : State) : (sinkFailure s).cmdItems = (if s.busy then [] else s.cmdItems) := by simp [sinkFailure]; rfl
@[simp] theorem sinkFailure_pos (s : State) : (sinkFailure s).pos = (if s.busy then 0 else s.pos) := by simp [sinkFailure]; rfl
@[simp] theorem sinkFailure_pendingLast (s : State) : (sinkFailure s).pendingLast = s.pendingLast := by simp [sinkFailure]
@[simp] theorem sinkFailure_params (s : State) : (sinkFailure s).params = s.params := by simp [sinkFailure]
@[simp] theorem sinkFailure_fbDraw (s : State) : (sinkFailure s).fbDraw = s.fbDraw := by simp [sinkFailure]
@[simp] theorem sinkFailure_hostProg (s : State) : (sinkFailure s).hostProg = s.hostProg := by simp [sinkFailure]
@[simp] theorem sinkFailure_busResp (s : State) : (sinkFailure s).busResp = s.busResp := by simp [sinkFailure]
@[simp] theorem sinkFailure_delivered (s : State) : (sinkFailure s).delivered = s.delivered := by simp [sinkFailure]
@[simp] theorem sinkFailure_turns (s : State) : (sinkFailure s).turns = s.turns := by simp [sinkFailure]
@[simp] theorem sinkFailure_drawn (s : State) : (sinkFailure s).drawn = s.drawn := by simp [sinkFailure]

/-! ### `enqueue` -/

@[simp] theorem enqueue_busy (it : Item) (s : State) : (enqueue it s).busy = s.busy := rfl
@[simp] theorem enqueue_err (it : Item) (s : State) : (enqueue it s).err = s.err := rfl
@[simp] theorem enqueue_bwe (it : Item) (s : State) : (enqueue it s).bwe = s.bwe := rfl
@[simp] theorem enqueue_lastValid (it : Item) (s : State) : (enqueue it s).lastValid = s.lastValid := rfl
@[simp] theorem enqueue_errCode (it : Item) (s : State) : (enqueue it s).errCode = s.errCode := rfl
@[simp] theorem enqueue_width (it : Item) (s : State) : (enqueue it s).width = s.width := rfl
@[simp] theorem enqueue_errInfo (it : Item) (s : State) : (enqueue it s).errInfo = s.errInfo := rfl
@[simp] theorem enqueue_rsDelay (it : Item) (s : State) : (enqueue it s).rsDelay = s.rsDelay := rfl
@[simp] theorem enqueue_csDelay (it : Item) (s : State) : (enqueue it s).csDelay = s.csDelay := rfl
@[simp] theorem enqueue_initDelay (it : Item) (s : State) : (enqueue it s).initDelay = s.initDelay := rfl
@[simp] theorem enqueue_holdDelay (it : Item) (s : State) : (enqueue it s).holdDelay = s.holdDelay := rfl
@[simp] theorem enqueue_items (it : Item) (s : State) : (enqueue it s).items = (s.items + 1) := rfl
@[simp] theorem enqueue_lastBuf (it : Item) (s : State) : (enqueue it s).lastBuf = s.lastBuf := rfl
@[simp] theorem enqueue_fb (it : Item) (s : State) : (enqueue it s).fb = s.fb := rfl
@[simp] theorem enqueue_q (it : Item) (s : State) : (enqueue it s).q = (s.q ++ [it]) := rfl
@[simp] theorem enqueue_ecmd (it : Item) (s : State) : (enqueue it s).ecmd = s.ecmd := rfl
@[simp] theorem enqueue_cmdItems (it : Item) (s : State) : (enqueue it s).cmdItems = s.cmdItems := rfl
@[simp] theorem enqueue_pos (it : Item) (s : State) : (enqueue it s).pos = (s.pos + 1) := rfl
@[simp] theorem enqueue_pendingLast (it : Item) (s : State) : (enqueue it s).pendingLast = s.pendingLast := rfl
@[simp] theorem enqueue_params (it : Item) (s : State) : (enqueue it s).params = s.params := rfl
@[simp] theorem enqueue_fbDraw (it : Item) (s : State) : (enqueue it s).fbDraw = s.fbDraw := rfl
@[simp] theorem enqueue_hostProg (it : Item) (s : State) : (enqueue it s).hostProg = s.hostProg := rfl
@[simp] theorem enqueue_busResp (it : Item) (s : State) : (enqueue it s).busResp = s.busResp := rfl
@[simp] theorem enqueue_delivered (it : Item) (s : State) : (enqueue it s).delivered = s.delivered := rfl
@[simp] theorem enqueue_turns (it : Item) (s : State) : (enqueue it s).turns = s.turns := rfl
@[simp] theorem enqueue_drawn (it : Item) (s : State) : (enqueue it s).drawn = s.drawn := rfl

/-! ### `takeHead` -/

@[simp] theorem takeHead_busy (it : Item) (ok : Bool) (r : List Item) (s : State) : (takeHead it ok r s).busy = s.busy := rfl
@[simp] theorem takeHead_err (it : Item) (ok : Bool) (r : List Item) (s : State) : (takeHead it ok r s).err = s.err := rfl
@[simp] theorem takeHead_bwe (it : Item) (ok : Bool) (r : List Item) (s : State) : (takeHead it ok r s).bwe = s.bwe := rfl
@[simp] theorem takeHead_lastValid (it : Item) (ok : Bool) (r : List Item) (s : State) : (takeHead it ok r s).lastValid = s.lastValid := rfl
@[simp] theorem takeHead_errCode (it : Item) (ok : Bool) (r : List Item) (s : State) : (takeHead it ok r s).errCode = s.errCode := rfl
@[simp] theorem takeHead_width (it : Item) (ok : Bool) (r : List Item) (s : State) : (takeHead it ok r s).width = s.width := rfl
@[simp] theorem takeHead_errInfo (it : Item) (ok : Bool) (r : List Item) (s : State) : (takeHead it ok r s).errInfo = s.errInfo := rfl
@[simp] theorem takeHead_rsDelay (it : Item) (ok : Bool) (r : List Item) (s : State) : (takeHead it ok r s).rsDelay = s.rsDelay := rfl
@[simp] theorem takeHead_csDelay (it : Item) (ok : Bool) (r : List Item) (s : State) : (takeHead it ok r s).csDelay = s.csDelay := rfl
@[simp] theorem takeHead_initDelay (it : Item) (ok : Bool) (r : List Item) (s : State) : (takeHead it ok r s).initDelay = s.initDelay := rfl
@[simp] theorem takeHead_holdDelay (it : Item) (ok : Bool) (r : List Item) (s : State) : (takeHead it ok r s).holdDelay = s.holdDelay := rfl
@[simp] theorem takeHead_items (it : Item) (ok : Bool) (r : List Item) (s : State) : (takeHead it ok r s).items = s.items := rfl
@[simp] theorem takeHead_lastBuf (it : Item) (ok : Bool) (r : List Item) (s : State) : (takeHead it ok r s).lastBuf = s.lastBuf := rfl
@[simp] theorem takeHead_fb (it : Item) (ok : Bool) (r : List Item) (s : State) : (takeHead it ok r s).fb = s.fb := rfl
@[simp] theorem takeHead_q (it : Item) (ok : Bool) (r : List Item) (s : State) : (takeHead it ok r s).q = r := rfl
@[simp] theorem takeHead_ecmd (it : Item) (ok : Bool) (r : List Item) (s : State) : (takeHead it ok r s).ecmd = s.ecmd := rfl
@[simp] theorem takeHead_cmdItems (it : Item) (ok : Bool) (r : List Item) (s : State) : (takeHead it ok r s).cmdItems = s.cmdItems := rfl
@[simp] theorem takeHead_pos (it : Item) (ok : Bool) (r : List Item) (s : State) : (takeHead it ok r s).pos = s.pos := rfl
@[simp] theorem takeHead_pendingLast (it : Item) (ok : Bool) (r : List Item) (s : State) : (takeHead it ok r s).pendingLast = s.pendingLast := rfl
@[simp] theorem takeHead_params (it : Item) (ok : Bool) (r : List Item) (s : State) : (takeHead it ok r s).params = s.params := rfl
@[simp] theorem takeHead_fbDraw (it : Item) (ok : Bool) (r : List Item) (s : State) : (takeHead it ok r s).fbDraw = s.fbDraw := rfl
@[simp] theorem takeHead_hostProg (it : Item) (ok : Bool) (r : List Item) (s : State) : (takeHead it ok r s).hostProg = s.hostProg := rfl
@[simp] theorem takeHead_busResp (it : Item) (ok : Bool) (r : List Item) (s : State) : (takeHead it ok r s).busResp = s.busResp := rfl
@[simp] theorem takeHead_delivered (it : Item) (ok : Bool) (r : List Item) (s : State) : (takeHead it ok r s).delivered = (s.delivered ++ [(it, ok)]) := rfl
@[simp] theorem takeHead_turns (it : Item) (ok : Bool) (r : List Item) (s : State) : (takeHead it ok r s).turns = s.turns := rfl
@[simp] theorem takeHead_drawn (it : Item) (ok : Bool) (r : List Item) (s : State) : (takeHead it ok r s).drawn = s.drawn := rfl

/-! ### `completeIfLast` -/

@[simp] theorem completeIfLast_err (s : State) : (completeIfLast s).err = s.err := by unfold completeIfLast; split <;> simp
@[simp] theorem completeIfLast_bwe (s : State) : (completeIfLast s).bwe = s.bwe := by unfold completeIfLast; split <;> simp
@[simp] theorem completeIfLast_errCode (s : State) : (completeIfLast s).errCode = s.errCode := by unfold completeIfLast; split <;> simp
@[simp] theorem completeIfLast_width (s : State) : (completeIfLast s).width = s.width := by unfold completeIfLast; split <;> simp
@[simp] theorem completeIfLast_errInfo (s : State) : (completeIfLast s).errInfo = s.errInfo := by unfold completeIfLast; split <;> simp
@[simp] theorem completeIfLast_rsDelay (s : State) : (completeIfLast s).rsDelay = s.rsDelay := by unfold completeIfLast; split <;> simp
@[simp] theorem completeIfLast_csDelay (s : State) : (completeIfLast s).csDelay = s.csDelay := by unfold completeIfLast; split <;> simp
@[simp] theorem completeIfLast_initDelay (s : State) : (completeIfLast s).initDelay = s.initDelay := by unfold completeIfLast; split <;> simp
@[simp] theorem completeIfLast_holdDelay (s : State) : (completeIfLast s).holdDelay = s.holdDelay := by unfold completeIfLast; split <;> simp
@[simp] theorem completeIfLast_items (s : State) : (completeIfLast s).items = s.items := by unfold completeIfLast; split <;> simp
@[simp] theorem completeIfLast_fb (s : State) : (completeIfLast s).fb = s.fb := by unfold completeIfLast; split <;> simp
@[simp] theorem completeIfLast_q (s : State) : (completeIfLast s).q = s.q := by unfold completeIfLast; split <;> simp
@[simp] theorem completeIfLast_cmdItems (s : State) : (completeIfLast s).cmdItems = s.cmdItems := by unfold completeIfLast; split <;> simp
@[simp] theorem completeIfLast_pos (s : State) : (completeIfLast s).pos = s.pos := by unfold completeIfLast; split <;> simp
@[simp] theorem completeIfLast_pendingLast (s : State) : (completeIfLast s).pendingLast = s.pendingLast := by unfold completeIfLast; split <;> simp
@[simp] theorem completeIfLast_params (s : State) : (completeIfLast s).params = s.params := by unfold completeIfLast; split <;> simp
@[simp] theorem completeIfLast_fbDraw (s : State) : (completeIfLast s).fbDraw = s.fbDraw := by unfold completeIfLast; split <;> simp
@[simp] theorem completeIfLast_hostProg (s : State) : (completeIfLast s).hostProg = s.hostProg := by unfold completeIfLast; split <;> simp
@[simp] theorem completeIfLast_busResp (s : State) : (completeIfLast s).busResp = s.busResp := by unfold completeIfLast; split <;> simp
@[simp] theorem completeIfLast_delivered (s : State) : (completeIfLast s).delivered = s.delivered := by unfold completeIfLast; split <;> simp
@[simp] theorem completeIfLast_turns (s : State) : (completeIfLast s).turns = s.turns := by unfold completeIfLast; split <;> simp
@[simp] theorem completeIfLast_drawn (s : State) : (completeIfLast s).drawn = s.drawn := by unfold completeIfLast; split <;> simp

/-! ### `resetTurn` -/

@[simp] theorem resetTurn_busy (s : State) : (resetTurn s).busy = false := rfl
@[simp] theorem resetTurn_err (s : State) : (resetTurn s).err = false := rfl
@[simp] theorem resetTurn_bwe (s : State) : (resetTurn s).bwe = false := rfl
@[simp] theorem resetTurn_lastValid (s : State) : (resetTurn s).lastValid = false := rfl
@[simp] theorem resetTurn_errCode (s : State) : (resetTurn s).errCode = .none := rfl
@[simp] theorem resetTurn_width (s : State) : (resetTurn s).width = 0 := rfl
@[simp] theorem resetTurn_errInfo (s : State) : (resetTurn s).errInfo = 0 := rfl
@[simp] theorem resetTurn_rsDelay (s : State) : (resetTurn s).rsDelay = 0 := rfl
@[simp] theorem resetTurn_csDelay (s : State) : (resetTurn s).csDelay = 0 := rfl
@[simp] theorem resetTurn_initDelay (s : State) : (resetTurn s).initDelay = 0 := rfl
@[simp] theorem resetTurn_holdDelay (s : State) : (resetTurn s).holdDelay = 0 := rfl
@[simp] theorem resetTurn_items (s : State) : (resetTurn s).items = 0 := rfl
@[simp] theorem resetTurn_lastBuf (s : State) : (resetTurn s).lastBuf = blankFrame := rfl
@[simp] theorem resetTurn_fb (s : State) : (resetTurn s).fb = [] := rfl
@[simp] theorem resetTurn_q (s : State) : (resetTurn s).q = [] := rfl
@[simp] theorem resetTurn_ecmd (s : State) : (resetTurn s).ecmd = .none := rfl
@[simp] theorem resetTurn_cmdItems (s : State) : (resetTurn s).cmdItems = [] := rfl
@[simp] theorem resetTurn_pos (s : State) : (resetTurn s).pos = 0 := rfl
@[simp] theorem resetTurn_pendingLast (s : State) : (resetTurn s).pendingLast = blankFrame := rfl
@[simp] theorem resetTurn_params (s : State) : (resetTurn s).params = s.params := rfl
@[simp] theorem resetTurn_fbDraw (s : State) : (resetTurn s).fbDraw = (s.fbDraw + 1) := rfl
@[simp] theorem resetTurn_hostProg (s : State) : (resetTurn s).hostProg = s.hostProg := rfl
@[simp] theorem resetTurn_busResp (s : State) : (resetTurn s).busResp = s.busResp := rfl
@[simp] theorem resetTurn_delivered (s : State) : (resetTurn s).delivered = s.delivered := rfl
@[simp] theorem resetTurn_turns (s : State) : (resetTurn s).turns = s.turns := rfl
@[simp] theorem resetTurn_drawn (s : State) : (resetTurn s).drawn = s.drawn := rfl

end Sys2Proof.Machine
end

