-- ==== Sys2Proof/Laws/Bus.lean ====
section
/-! SUPPORT. The host bus: what an access reaches, and everything a write can do. -/

namespace Sys2Proof.Machine

open Sys2Proof

/-- R45: where the FB window ends, in the spec's own terms. -/
theorem fbEnd_eq (p : Params) : fbEnd p = 0x10000 + 6 * (p.fbMaxCols / 8) := rfl

/-- R15, R46: the accesses that reach a register. -/
theorem busTarget_reg_iff (p : Params) (off n : Nat) (r : Reg) :
    busTarget p off n = some (.reg r) ↔ n = 4 ∧ off = r.offset := by
  unfold busTarget
  constructor
  · intro h
    split at h
    · split at h
      · rename_i hn
        refine ⟨hn, ?_⟩
        unfold regAt at h
        split at h <;> cases r <;> simp_all [Reg.offset]
      · cases h
    · split at h
      · split at h <;> simp at h
      · split at h
        · split at h <;> simp at h
        · cases h
  · rintro ⟨rfl, rfl⟩
    cases r <;> simp [Reg.offset, regAt]

/-- R47: the accesses that reach the LAST window. -/
theorem busTarget_last_iff (p : Params) (off n j : Nat) :
    busTarget p off n = some (.last j) ↔ lastAccess off n ∧ j = off - 0x100 := by
  unfold busTarget windowAccess
  constructor
  · intro h
    split at h
    · split at h
      · cases h' : regAt off <;> simp [h'] at h
      · cases h
    · split at h
      · split at h
        · rename_i h1 h2
          simp only [Option.some.injEq, Target.last.injEq] at h
          simp only [Bool.and_eq_true, Bool.or_eq_true, beq_iff_eq] at h2
          refine ⟨⟨h1.1, h1.2, ?_, h2.2⟩, h.symm⟩
          omega
        · cases h
      · split at h
        · split at h <;> simp at h
        · cases h
  · rintro ⟨⟨h1, h2, h3, h4⟩, hj⟩
    have h' : lastBase ≤ off ∧ off < lastBase + FRAME_BYTES := by
      simp only [lastBase, FRAME_BYTES, ROWS, COLS]; omega
    rw [hj, if_neg (by omega), if_pos h', if_pos]
    simp only [Bool.and_eq_true, Bool.or_eq_true, beq_iff_eq]
    exact ⟨by omega, h4⟩

/-- R48: the accesses that reach the FB window. -/
theorem busTarget_fb_iff (p : Params) (off n a : Nat) :
    busTarget p off n = some (.fb a) ↔ fbAccess p off n ∧ a = off := by
  unfold busTarget windowAccess
  rw [fbEnd_eq]
  constructor
  · intro h
    split at h
    · split at h
      · cases h' : regAt off <;> simp [h'] at h
      · cases h
    · split at h
      · split at h <;> simp at h
      · split at h
        · split at h
          · rename_i h1 h2
            simp only [Option.some.injEq, Target.fb.injEq] at h
            simp only [Bool.and_eq_true, Bool.or_eq_true, beq_iff_eq] at h2
            exact ⟨⟨h1.1, h1.2, by omega, h2.2⟩, h.symm⟩
          · cases h
        · cases h
  · rintro ⟨⟨h1, h2, h3, h4⟩, rfl⟩
    rw [if_neg (by omega), if_neg (by simp only [lastBase, FRAME_BYTES, ROWS, COLS]; omega), if_pos (And.intro h1 h2), if_pos]
    simp only [Bool.and_eq_true, Bool.or_eq_true, beq_iff_eq]
    exact ⟨by omega, h4⟩

/-- The register accesses are those of R46. -/
theorem regAccess_iff (off n : Nat) : regAccess off n ↔ ∃ r : Reg, n = 4 ∧ off = r.offset := by
  constructor
  · rintro ⟨h1, rfl, h2⟩
    have : off = 0x0 ∨ off = 0x4 ∨ off = 0x8 ∨ off = 0xC ∨ off = 0x10 ∨ off = 0x14 ∨ off = 0x18 ∨ off = 0x1C ∨
        off = 0x20 ∨ off = 0x24 ∨ off = 0x28 := by omega
    rcases this with h | h | h | h | h | h | h | h | h | h | h
    · exact ⟨.id, rfl, h⟩
    · exact ⟨.param, rfl, h⟩
    · exact ⟨.cmd, rfl, h⟩
    · exact ⟨.status, rfl, h⟩
    · exact ⟨.width, rfl, h⟩
    · exact ⟨.errinfo, rfl, h⟩
    · exact ⟨.rsDelay, rfl, h⟩
    · exact ⟨.csDelay, rfl, h⟩
    · exact ⟨.initDelay, rfl, h⟩
    · exact ⟨.holdDelay, rfl, h⟩
    · exact ⟨.items, rfl, h⟩
  · rintro ⟨r, rfl, rfl⟩
    cases r <;> simp [regAccess, Reg.offset]

/-- R19: bit 0 of STATUS is BUSY. -/
theorem statusWord_busy (s : State) : (statusWord s).getLsbD 0 = s.busy := by
  simp only [statusWord, BitVec.getLsbD_append, Nat.lt_one_iff, if_true]
  cases s.busy <;> rfl

/-- The turn's bookkeeping does not show on the bus. -/
theorem readTarget_afterHost (rest : List HostOp) (resp : BusResp) (s : State) (n : Nat) (t : Target) :
    readTarget (afterHost rest resp s) n t = readTarget s n t := by
  cases t with
  | reg r => cases r <;> simp [readTarget, regRead, afterHost, statusWord]
  | last j => simp [readTarget, afterHost]
  | fb a => simp [readTarget, afterHost, fbByte]

theorem memRead_afterHost (rest : List HostOp) (resp : BusResp) (s : State) (off n : Nat) :
    memRead (afterHost rest resp s) off n = memRead s off n := by
  have hp : (afterHost rest resp s).params = s.params := by simp [afterHost]
  unfold memRead
  rw [hp, funext (readTarget_afterHost rest resp s n)]

/-- A CMD write is the acceptance of its word (R69). -/
theorem memWrite_cmd (v : Word) (s : State) : memWrite 0x008 4 v s = issue v s := by
  unfold memWrite
  rw [(busTarget_reg_iff s.params 0x008 4 .cmd).2 ⟨rfl, rfl⟩]

/-- A write of any target but CMD: refused, or stored. -/
theorem memWrite_of_target {off n : Nat} {v : Word} {s : State} {t : Target}
    (h : busTarget s.params off n = some t) (hc : t ≠ .reg .cmd) :
    memWrite off n v s = .next (if s.busy && refusedWhileBusy t then setBwe s else storeTarget n v s t) := by
  unfold memWrite
  rw [h]
  cases t with
  | reg r => cases r <;> first | rfl | exact absurd rfl hc
  | last j => rfl
  | fb a => rfl

/-- Everything acceptance can do (R69). -/
theorem issue_cases (w : Word) (s : State) :
    (s.busy = true ∧ issue w s = .next (setBwe s)) ∨
    (s.busy = false ∧ s.err = true ∧ issue w s = .next s) ∨
    (s.busy = false ∧ s.err = false ∧ (∃ e, decode w = .error e) ∧
      issue w s = .next (errorEntry .illegalCommand w s)) ∨
    (s.busy = false ∧ s.err = false ∧ ∃ i, decode w = .ok i ∧ issue w s = exec i s) := by
  unfold issue
  cases hb : s.busy
  · cases he : s.err
    · cases hd : decode w with
      | error e => simp
      | ok i => simp
    · simp
  · simp

/-- R80: the geometry check of ENCODE, as a condition on W. -/
theorem encodeGeometryBad_iff (s : State) : encodeGeometryBad s = true ↔
    s.width.toNat = 0 ∨ s.width.toNat % 8 ≠ 0 ∨ s.params.fbMaxCols < s.width.toNat := by
  simp [encodeGeometryBad, opWidth, or_assoc]

/-- R95: the geometry check of ANIMATE, as a condition on W. -/
theorem animateGeometryBad_iff (s : State) :
    animateGeometryBad s = true ↔ s.params.fbMaxCols < s.width.toNat := by simp [animateGeometryBad, opWidth]

/-- R104: zext_32(W) as a number. -/
theorem widthInfo_eq (s : State) : widthInfo s = BitVec.ofNat 32 s.width.toNat := by
  rw [BitVec.ofNat_toNat]; rfl

theorem exec_encode_of_bad {s : State} (h : encodeGeometryBad s = true) :
    exec .encode s = .next (errorEntry .invalidGeometry (widthInfo s) s) := by simp [exec, execEncode, h]

theorem exec_encode_of_good {s : State} (h : ¬ encodeGeometryBad s = true) :
    exec .encode s = .next (accept .enc (encodeItems s) s) := by simp [exec, execEncode, h]

theorem exec_animate_of_bad {t h : Bool} {s : State} (hg : animateGeometryBad s = true) :
    exec (.animate t h) s = .next (errorEntry .invalidGeometry (widthInfo s) s) := by
  simp [exec, execAnimate, hg]

theorem exec_animate_of_good {t h : Bool} {s : State} (hg : ¬ animateGeometryBad s = true) :
    exec (.animate t h) s = .next (acceptAnimate t h s) := by simp [exec, execAnimate, hg]

/-- R69: an idle block with no error executes the command a word decodes to. -/
theorem issue_of_ok {w : Word} {i : Instr} {s : State} (hb : s.busy = false) (he : s.err = false)
    (hd : decode w = .ok i) : issue w s = exec i s := by simp [issue, hb, he, hd]

/-- R70: an idle block with no error records an illegal word. -/
theorem issue_of_error {w : Word} {e : Reject} {s : State} (hb : s.busy = false) (he : s.err = false)
    (hd : decode w = .error e) : issue w s = .next (errorEntry .illegalCommand w s) := by simp [issue, hb, he, hd]

/-- Everything an accepted command can do: an error entry of INVALID_GEOMETRY, the acceptance of a list, or a change of
`last` alone. -/
theorem exec_cases (i : Instr) (s : State) :
    ((i = .encode ∨ ∃ t h, i = .animate t h) ∧
      exec i s = .next (errorEntry .invalidGeometry (widthInfo s) s)) ∨
    (i = .encode ∧ encodeGeometryBad s = false ∧ exec i s = .next (accept .enc (encodeItems s) s)) ∨
    (∃ t h, i = .animate t h ∧ animateGeometryBad s = false ∧ exec i s = .next (acceptAnimate t h s)) ∨
    (i = .nop ∧ exec i s = .next s) ∨
    (i = .lastClear ∧ exec i s = .next { s with lastValid := false }) ∨
    (i = .lastSet ∧ exec i s = .next { s with lastValid := true }) ∨
    (i = .lastBlank ∧ exec i s = .next { s with lastBuf := blankFrame, lastValid := true }) := by
  cases i with
  | nop => simp [exec, execNop]
  | encode =>
    cases h : encodeGeometryBad s <;> simp [exec, execEncode, h]
  | animate t h =>
    cases hg : animateGeometryBad s
    · exact .inr (.inr (.inl ⟨t, h, rfl, rfl, by simp [exec, execAnimate, hg]⟩))
    · exact .inl ⟨.inr ⟨t, h, rfl⟩, by simp [exec, execAnimate, hg]⟩
  | lastClear => simp [exec, execLastClear]
  | lastSet => simp [exec, execLastSet]
  | lastBlank => simp [exec, execLastBlank]

/-- Every accepted command answers a next state. -/
theorem exec_next (i : Instr) (s : State) : ∃ t, exec i s = .next t := by
  rcases exec_cases i s with h | h | h | h | h | h | h
  · exact ⟨_, h.2⟩
  · exact ⟨_, h.2.2⟩
  · obtain ⟨a, b, -, -, h⟩ := h; exact ⟨_, h⟩
  · exact ⟨_, h.2⟩
  · exact ⟨_, h.2⟩
  · exact ⟨_, h.2⟩
  · exact ⟨_, h.2⟩

/-- Acceptance always answers a next state (R69). -/
theorem issue_next (w : Word) (s : State) : ∃ t, issue w s = .next t := by
  rcases issue_cases w s with ⟨_, e⟩ | ⟨_, _, e⟩ | ⟨_, _, _, e⟩ | ⟨_, _, i, _, e⟩
  · exact ⟨_, e⟩
  · exact ⟨_, e⟩
  · exact ⟨_, e⟩
  · obtain ⟨t, h⟩ := exec_next i s
    exact ⟨t, e.trans h⟩

/-- R45 to R51: the accesses that reach nothing. -/
theorem busTarget_none_iff (p : Params) (off n : Nat) : busTarget p off n = none ↔ ¬ legalAccess p off n := by
  constructor
  · intro h hl
    rcases hl with hl | hl | hl
    · obtain ⟨r, h1⟩ := (regAccess_iff off n).1 hl
      rw [(busTarget_reg_iff p off n r).2 h1] at h; cases h
    · rw [(busTarget_last_iff p off n _).2 ⟨hl, rfl⟩] at h; cases h
    · rw [(busTarget_fb_iff p off n _).2 ⟨hl, rfl⟩] at h; cases h
  · intro h
    cases hb : busTarget p off n with
    | none => rfl
    | some tg =>
      exfalso
      apply h
      cases tg with
      | reg r => exact .inl ((regAccess_iff off n).2 ⟨r, (busTarget_reg_iff p off n r).1 hb⟩)
      | last j => exact .inr (.inl ((busTarget_last_iff p off n j).1 hb).1)
      | fb a => exact .inr (.inr ((busTarget_fb_iff p off n a).1 hb).1)

/-- A write faults when it reaches nothing, and answers a next state when it reaches something. -/
theorem memWrite_outcome (off n : Nat) (v : Word) (s : State) :
    (busTarget s.params off n = none ∧ memWrite off n v s = .fault .busError) ∨
    (busTarget s.params off n ≠ none ∧ ∃ t, memWrite off n v s = .next t) := by
  cases hb : busTarget s.params off n with
  | none => left; refine ⟨rfl, ?_⟩; unfold memWrite; rw [hb]
  | some tg =>
    right
    by_cases hc : tg = .reg .cmd
    · subst hc
      obtain ⟨rfl, rfl⟩ := (busTarget_reg_iff _ _ _ _).1 hb
      obtain ⟨t, h⟩ := issue_next v s
      exact ⟨by simp, t, (memWrite_cmd v s).trans h⟩
    · exact ⟨by simp, _, memWrite_of_target hb hc⟩

/-- A read of what an access reaches. -/
theorem memRead_of_target {s : State} {off n : Nat} {tg : Target} (h : busTarget s.params off n = some tg) :
    memRead s off n = some (readTarget s n tg) := by
  unfold memRead
  rw [h]
  rfl

/-- A read of a register's offset reads the register. -/
theorem memRead_reg (s : State) (r : Reg) : memRead s r.offset 4 = some (regRead s r) :=
  memRead_of_target ((busTarget_reg_iff s.params _ 4 r).2 ⟨rfl, rfl⟩)

/-- A write of a register other than CMD: refused, or stored. -/
theorem memWrite_reg {s : State} (r : Reg) (v : Word) (hc : r ≠ .cmd) :
    memWrite r.offset 4 v s =
      .next (if s.busy && refusedWhileBusy (.reg r) then setBwe s else storeTarget 4 v s (.reg r)) :=
  memWrite_of_target ((busTarget_reg_iff s.params _ 4 r).2 ⟨rfl, rfl⟩) (by simpa using hc)

/-- An idle block stores a write of a register other than CMD. -/
theorem memWrite_reg_idle {s : State} (r : Reg) (v : Word) (hc : r ≠ .cmd) (hb : s.busy = false) :
    memWrite r.offset 4 v s = .next (storeTarget 4 v s (.reg r)) := by simp [memWrite_reg r v hc, hb]

end Sys2Proof.Machine
end

