-- ==== Sys2Proof/Laws/Decode.lean ====
section
/-! SUPPORT. The decoder's cases, said once: which words a command other than ANIMATE is read from, and that the
fields of a word with clear reserved bits give the word back. -/

namespace Sys2Proof

/-- `decodePlain` answers exactly the command given, on a word with clear reserved bits and flags. -/
theorem decodePlain_ok_iff (w : Word) (i j : Instr) :
    decodePlain w i = .ok j ↔ j = i ∧ reservedClear w = true ∧ tFlag w = false ∧ hFlag w = false := by
  unfold decodePlain
  cases reservedClear w <;> cases tFlag w <;> cases hFlag w <;> simp [eq_comm]

/-- R64: the reserved bits, one by one. -/
theorem reservedClear_bit (w : Word) (h : reservedClear w = true) (i : Nat)
    (hi : (4 ≤ i ∧ i < 8) ∨ 10 ≤ i) (h32 : i < 32) : w[i] = false := by
  simp only [reservedClear, Bool.and_eq_true, beq_iff_eq] at h
  rw [← BitVec.getLsbD_eq_getElem]
  rcases hi with ⟨h4, h8⟩ | h10
  · have := congrArg (fun x => x.getLsbD (i - 4)) h.1
    simpa [BitVec.getLsbD_extractLsb', show i - 4 < 4 by omega, show 4 + (i - 4) = i by omega] using this
  · have := congrArg (fun x => x.getLsbD (i - 10)) h.2
    simpa [BitVec.getLsbD_extractLsb', show i - 10 < 22 by omega, show 10 + (i - 10) = i by omega] using this

/-- R64: the fields of a word with clear reserved bits give the word back. -/
theorem cmd32_of_fields (w : Word) (h : reservedClear w = true) :
    cmd32 (w.extractLsb' 0 4) (tFlag w) (hFlag w) = w := by
  apply BitVec.eq_of_getLsbD_eq
  intro i hi
  simp only [cmd32, tFlag, hFlag, BitVec.getLsbD_append]
  interval_cases i <;> simp <;>
    exact (reservedClear_bit w h _ (by omega) (by omega))

end Sys2Proof
end

