-- ==== Sys2Proof/Laws/PerInstr.lean ====
section
/-! SUPPORT. Per instruction: the decoder reads back the word the encoder writes (R65, R67). -/

namespace Sys2Proof.Laws.RoundTrip

open Sys2Proof

/-- The word of a command decodes to the command, and the command is well-formed. -/
def Statement (i : Instr) : Prop := i.wf = true ∧ decode (encode i) = .ok i

theorem nop : Statement .nop := by unfold Statement; decide
theorem encode : Statement .encode := by unfold Statement; decide
theorem animate (t h : Bool) : Statement (.animate t h) := by
  unfold Statement; cases t <;> cases h <;> decide
theorem lastClear : Statement .lastClear := by unfold Statement; decide
theorem lastSet : Statement .lastSet := by unfold Statement; decide
theorem lastBlank : Statement .lastBlank := by unfold Statement; decide

end Sys2Proof.Laws.RoundTrip
end

