-- ==== Sys2Proof/Laws/Scroll.lean ====
section
/-! SUPPORT. The item list of ANIMATE: the lengths of its parts and the sizes of its frames. -/

namespace Sys2Proof.Machine

open Sys2Proof

/-- R83: there is at least one window. -/
theorem windowCount_pos (we : Nat) : 1 ≤ windowCount we := by unfold windowCount; omega

/-- Packing a device frame reads only its 6 × 64 bits. -/
theorem enc_cols_congr {F G : Bitmap} (h : ∀ r < 6, ∀ c < 64, F r c = G r c) : enc F COLS = enc G COLS :=
  enc_congr fun r hr c hc => h r hr c (by simpa [COLS] using hc)

/-- R75, R78: the bits of an encoded device frame. -/
theorem dec_enc_cols (F : Bitmap) (r c : Nat) (hr : r < 6) (hc : c < 64) : dec (enc F COLS) 64 r c = F r c := by
  have h := enc_getElem? F 64 r (c / 8) hr (by omega)
  unfold dec
  rw [List.getD_eq_getElem?_getD, h]
  simp only [Option.getD_some]
  rw [packByte_getLsbD _ _ _ _ (by omega)]
  congr 1
  omega

/-- R35: an encoded device frame has 48 bytes. -/
@[simp] theorem enc_cols_length (F : Bitmap) : (enc F COLS).length = 48 := enc_length F COLS

@[simp] theorem shiftItems_length (s : State) (we i : Nat) : (shiftItems s we i).length = 2 := rfl

/-- R85, R86: the length of the curtain, in every reading. -/
theorem curtainItems_length (s : State) (we : Nat) :
    (curtainItems s we).length = 6 + s.params.rsDelays.count + (if initGateOpen s.params we then 1 else 0) := by
  unfold curtainItems
  cases s.params.rsDelays <;> cases initGateOpen s.params we <;>
    simp [RsDelays.count, List.range_succ]

@[simp] theorem holdItems_length (s : State) (h : Bool) : (holdItems s h).length = h.toNat := by
  cases h <;> rfl

/-- R84: the list of an ANIMATE without `last`. -/
theorem animateItems_of_none (s : State) (t h : Bool) (hl : s.lastValid = false) :
    animateItems s t h =
      (List.range (windowCount (effWidth t (opWidth s)))).flatMap (shiftItems s (effWidth t (opWidth s))) ++
        holdItems s h := by
  unfold animateItems
  congr 1
  apply List.flatMap_congr
  intro i _
  simp [windowItems, hl]

/-- R84: the list of an ANIMATE with `last`: the curtain, then the further windows. -/
theorem animateItems_of_some (s : State) (t h : Bool) (hl : s.lastValid = true) :
    animateItems s t h =
      curtainItems s (effWidth t (opWidth s)) ++
        ((List.range (windowCount (effWidth t (opWidth s)) - 1)).flatMap fun i =>
          shiftItems s (effWidth t (opWidth s)) (i + 1)) ++
        holdItems s h := by
  unfold animateItems
  congr 1
  obtain ⟨m, hm⟩ : ∃ m, windowCount (effWidth t (opWidth s)) = m + 1 :=
    ⟨_, (Nat.sub_add_cancel (windowCount_pos _)).symm⟩
  rw [hm, List.range_succ_eq_map, List.flatMap_cons, Nat.add_sub_cancel, List.flatMap_map]
  congr 1
  simp [windowItems, hl]

/-- R92: the list is never empty, and is bounded by the number of windows, in every reading. -/
theorem animateItems_length_bounds (s : State) (t h : Bool) :
    0 < (animateItems s t h).length ∧
      (animateItems s t h).length ≤ 2 * windowCount (effWidth t (opWidth s)) + 12 := by
  have hn := windowCount_pos (effWidth t (opWidth s))
  have hh : h.toNat ≤ 1 := Bool.toNat_le h
  cases hl : s.lastValid
  · rw [animateItems_of_none s t h hl, List.length_append, holdItems_length,
      length_flatMap_range _ 2 _ fun _ _ => shiftItems_length s _ _]
    omega
  · rw [animateItems_of_some s t h hl, List.length_append, List.length_append, holdItems_length,
      length_flatMap_range _ 2 _ fun _ _ => shiftItems_length s _ _, curtainItems_length]
    have hc : s.params.rsDelays.count ≤ 6 := by cases s.params.rsDelays <;> decide
    split <;> omega

/-- R83: there are fewer windows than a WIDTH can say. -/
theorem windowCount_le (s : State) (t : Bool) : windowCount (effWidth t (opWidth s)) ≤ 65535 := by
  have := s.width.isLt
  unfold windowCount effWidth opWidth COLS
  split <;> omega

/-- R35: every FRAME of an ANIMATE has 48 bytes. -/
theorem animateItems_deviceSized (s : State) (t h : Bool) : ∀ it ∈ animateItems s t h, it.deviceSized = true := by
  have hs : ∀ we i, ∀ it ∈ shiftItems s we i, it.deviceSized = true := by
    intro we i it hi
    simp only [shiftItems, List.mem_cons, List.not_mem_nil, or_false] at hi
    rcases hi with rfl | rfl
    · simp [Item.deviceSized, FRAME_BYTES, ROWS, COLS]
    · rfl
  have hc : ∀ we, ∀ it ∈ curtainItems s we, it.deviceSized = true := by
    intro we it hi
    simp only [curtainItems, List.mem_append, List.mem_flatMap, List.mem_cons] at hi
    rcases hi with ⟨k, -, rfl | hi⟩ | hi
    · simp [Item.deviceSized, FRAME_BYTES, ROWS, COLS]
    · split at hi <;> simp at hi
      rw [hi]; rfl
    · split at hi <;> simp at hi
      rw [hi]; rfl
  intro it hi
  simp only [animateItems, List.mem_append, List.mem_flatMap] at hi
  rcases hi with ⟨i, -, hi⟩ | hi
  · unfold windowItems at hi
    split at hi
    · exact hc _ it hi
    · exact hs _ _ it hi
  · cases h <;> simp [holdItems] at hi
    rw [hi]; rfl

/-! ### What the list depends on -/

/-- R81: a window, bit by bit. -/
theorem win_eq (s : State) (we i r c : Nat) : win s we i r c = (decide (i + c < we) && fbBit s r (i + c)) := by
  unfold win
  split <;> simp_all

theorem shiftItems_congr {s u : State} {we i : Nat} (hd : u.csDelay = s.csDelay)
    (hw : ∀ r < 6, ∀ c < 64, win u we i r c = win s we i r c) : shiftItems u we i = shiftItems s we i := by
  unfold shiftItems
  rw [hd, enc_cols_congr hw]

theorem inter_congr {A B A' B' : Bitmap} {k : Nat} (hA : ∀ r < 6, ∀ c < 64, A r c = A' r c)
    (hB : ∀ r < 6, ∀ c < 64, B r c = B' r c) : enc (inter k A B) COLS = enc (inter k A' B') COLS := by
  apply enc_cols_congr
  intro r hr c hc
  unfold inter
  split
  · exact hA _ (by omega) c hc
  · exact hB _ (by omega) c hc

theorem curtainItems_congr {s u : State} {we : Nat} (hp : u.params = s.params) (h1 : u.rsDelay = s.rsDelay)
    (h2 : u.initDelay = s.initDelay) (hl : u.lastBuf = s.lastBuf)
    (hw : ∀ r < 6, ∀ c < 64, win u we 0 r c = win s we 0 r c) : curtainItems u we = curtainItems s we := by
  have e : ∀ k, enc (inter k (opLast u) (win u we 0)) COLS = enc (inter k (opLast s) (win s we 0)) COLS :=
    fun k => inter_congr (fun r _ c _ => by unfold opLast; rw [hl]) hw
  unfold curtainItems
  simp only [e, hp, h1, h2]

theorem windowItems_congr {s u : State} {we i : Nat} (hv : u.lastValid = s.lastValid) (hp : u.params = s.params)
    (h1 : u.rsDelay = s.rsDelay) (h2 : u.csDelay = s.csDelay) (h3 : u.initDelay = s.initDelay)
    (hl : u.lastBuf = s.lastBuf) (hw : ∀ r < 6, ∀ c < 64, win u we i r c = win s we i r c) :
    windowItems u we i = windowItems s we i := by
  unfold windowItems
  rw [hv]
  split
  · rename_i h
    exact curtainItems_congr hp h1 h3 hl (by rw [← h.1]; exact hw)
  · exact shiftItems_congr h2 hw

/-! ### `acceptAnimate`, field by field -/

@[simp] theorem acceptAnimate_busy (t h : Bool) (s : State) : (acceptAnimate t h s).busy = true := rfl
@[simp] theorem acceptAnimate_err (t h : Bool) (s : State) : (acceptAnimate t h s).err = s.err := rfl
@[simp] theorem acceptAnimate_bwe (t h : Bool) (s : State) : (acceptAnimate t h s).bwe = s.bwe := rfl
@[simp] theorem acceptAnimate_lastValid (t h : Bool) (s : State) : (acceptAnimate t h s).lastValid = s.lastValid := rfl
@[simp] theorem acceptAnimate_errCode (t h : Bool) (s : State) : (acceptAnimate t h s).errCode = s.errCode := rfl
@[simp] theorem acceptAnimate_width (t h : Bool) (s : State) : (acceptAnimate t h s).width = s.width := rfl
@[simp] theorem acceptAnimate_errInfo (t h : Bool) (s : State) : (acceptAnimate t h s).errInfo = s.errInfo := rfl
@[simp] theorem acceptAnimate_rsDelay (t h : Bool) (s : State) : (acceptAnimate t h s).rsDelay = s.rsDelay := rfl
@[simp] theorem acceptAnimate_csDelay (t h : Bool) (s : State) : (acceptAnimate t h s).csDelay = s.csDelay := rfl
@[simp] theorem acceptAnimate_initDelay (t h : Bool) (s : State) : (acceptAnimate t h s).initDelay = s.initDelay := rfl
@[simp] theorem acceptAnimate_holdDelay (t h : Bool) (s : State) : (acceptAnimate t h s).holdDelay = s.holdDelay := rfl
@[simp] theorem acceptAnimate_items (t h : Bool) (s : State) : (acceptAnimate t h s).items = 0 := rfl
@[simp] theorem acceptAnimate_lastBuf (t h : Bool) (s : State) : (acceptAnimate t h s).lastBuf = s.lastBuf := rfl
@[simp] theorem acceptAnimate_fb (t h : Bool) (s : State) : (acceptAnimate t h s).fb = s.fb := rfl
@[simp] theorem acceptAnimate_q (t h : Bool) (s : State) : (acceptAnimate t h s).q = s.q := rfl
@[simp] theorem acceptAnimate_ecmd (t h : Bool) (s : State) : (acceptAnimate t h s).ecmd = .ani := rfl
@[simp] theorem acceptAnimate_cmdItems (t h : Bool) (s : State) : (acceptAnimate t h s).cmdItems = animateItems s t h := rfl
@[simp] theorem acceptAnimate_pos (t h : Bool) (s : State) : (acceptAnimate t h s).pos = 0 := rfl
@[simp] theorem acceptAnimate_pendingLast (t h : Bool) (s : State) : (acceptAnimate t h s).pendingLast = animateLast s t := rfl
@[simp] theorem acceptAnimate_params (t h : Bool) (s : State) : (acceptAnimate t h s).params = s.params := rfl
@[simp] theorem acceptAnimate_fbDraw (t h : Bool) (s : State) : (acceptAnimate t h s).fbDraw = s.fbDraw := rfl
@[simp] theorem acceptAnimate_hostProg (t h : Bool) (s : State) : (acceptAnimate t h s).hostProg = s.hostProg := rfl
@[simp] theorem acceptAnimate_busResp (t h : Bool) (s : State) : (acceptAnimate t h s).busResp = s.busResp := rfl
@[simp] theorem acceptAnimate_delivered (t h : Bool) (s : State) : (acceptAnimate t h s).delivered = s.delivered := rfl
@[simp] theorem acceptAnimate_turns (t h : Bool) (s : State) : (acceptAnimate t h s).turns = s.turns := rfl
@[simp] theorem acceptAnimate_drawn (t h : Bool) (s : State) : (acceptAnimate t h s).drawn = s.drawn := rfl

end Sys2Proof.Machine
end

