-- ==== Sys2Proof/Laws/Step.lean ====
section
/-! SUPPORT. Everything a step can do, said once. -/

namespace Sys2Proof.Machine

open Sys2Proof

/-- R41: the engine's turn where it has a step. -/
theorem engineTurn_of_enabled {s : State} {it : Item} (hb : s.busy = true) (hi : s.cmdItems[s.pos]? = some it)
    (hq : s.q.length < s.params.outDepth) : engineTurn s = completeIfLast (enqueue it s) := by
  have hp : s.pos < s.cmdItems.length := by
    rcases Nat.lt_or_ge s.pos s.cmdItems.length with h | h
    · exact h
    · rw [List.getElem?_eq_none h] at hi; cases hi
  unfold engineTurn engineEnabled
  rw [hi]
  simp [hb, hp, hq]

/-- R41: the engine's turn where it has no step. -/
theorem engineTurn_of_disabled {s : State} (h : engineEnabled s = false) : engineTurn s = s := by
  unfold engineTurn
  simp [h]

/-- R41: the engine has a step or has not. -/
theorem engine_cases (s : State) :
    (∃ it, s.busy = true ∧ s.cmdItems[s.pos]? = some it ∧ s.q.length < s.params.outDepth ∧
      s.pos < s.cmdItems.length ∧ engineTurn s = completeIfLast (enqueue it s)) ∨
    (engineEnabled s = false ∧ engineTurn s = s) := by
  cases h : engineEnabled s
  · exact .inr ⟨rfl, engineTurn_of_disabled h⟩
  · simp only [engineEnabled, Bool.and_eq_true, decide_eq_true_eq] at h
    obtain ⟨⟨hb, hp⟩, hq⟩ := h
    have hi := List.getElem?_eq_getElem hp
    exact .inl ⟨_, hb, hi, hq, hp, engineTurn_of_enabled hb hi hq⟩

/-- R43: the sink's turn. -/
theorem sink_cases (ok : Bool) (s : State) :
    (s.q = [] ∧ sinkTurn ok s = s) ∨
    (∃ it rest, s.q = it :: rest ∧ ok = true ∧ sinkTurn ok s = takeHead it true rest s) ∨
    (∃ it rest, s.q = it :: rest ∧ ok = false ∧ sinkTurn ok s = sinkFailure (takeHead it false rest s)) := by
  unfold sinkTurn
  cases hq : s.q with
  | nil => simp
  | cons it rest => cases ok <;> simp

/-- Everything a host turn can do when it answers a next state: nothing is left, a read, a refused or stored or issued
write, or a turn of WAIT. -/
theorem host_cases {s t : State} (h : hostTurn s = .next t) :
    (s.hostProg = [] ∧ t = s) ∨
    (∃ off n rest v, s.hostProg = .read off n :: rest ∧ memRead s off n = some v ∧
      t = { s with hostProg := rest, busResp := .data v }) ∨
    (∃ off n v rest, s.hostProg = .write off n v :: rest ∧
      memWrite off n v { s with hostProg := rest, busResp := .done } = .next t) ∨
    (∃ rest, s.hostProg = .wait :: rest ∧ t = hostWait rest s) := by
  unfold hostTurn at h
  cases hp : s.hostProg with
  | nil => rw [hp] at h; simp only [Host.Outcome.next.injEq] at h; simp [h]
  | cons op rest =>
    rw [hp] at h
    cases op with
    | read off n =>
      right; left
      simp only [hostRead] at h
      have e : memRead { s with hostProg := rest } off n = memRead s off n := rfl
      rw [e] at h
      cases hm : memRead s off n with
      | none => rw [hm] at h; cases h
      | some v =>
        rw [hm] at h
        simp only [Host.Outcome.next.injEq] at h
        exact ⟨off, n, rest, v, rfl, hm, h.symm⟩
    | write off n v => exact .inr (.inr (.inl ⟨off, n, v, rest, rfl, h⟩))
    | wait =>
      right; right; right
      simp only [Host.Outcome.next.injEq] at h
      exact ⟨rest, rfl, h.symm⟩

/-- Everything a write can do when it answers a next state: it is refused, stored, or issues a command. -/
theorem memWrite_cases {off n : Nat} {v : Word} {s t : State} (h : memWrite off n v s = .next t) :
    (∃ tg, busTarget s.params off n = some tg ∧ s.busy = true ∧ refusedWhileBusy tg = true ∧ t = setBwe s) ∨
    (∃ tg, busTarget s.params off n = some tg ∧ tg ≠ .reg .cmd ∧
      (s.busy = false ∨ refusedWhileBusy tg = false) ∧ t = storeTarget n v s tg) ∨
    (off = 0x008 ∧ n = 4 ∧ s.busy = false ∧ s.err = true ∧ t = s) ∨
    (off = 0x008 ∧ n = 4 ∧ s.busy = false ∧ s.err = false ∧ (∃ e, decode v = .error e) ∧
      t = errorEntry .illegalCommand v s) ∨
    (off = 0x008 ∧ n = 4 ∧ s.busy = false ∧ s.err = false ∧ ∃ i, decode v = .ok i ∧ exec i s = .next t) := by
  cases ht : busTarget s.params off n with
  | none => unfold memWrite at h; rw [ht] at h; cases h
  | some tg =>
    by_cases hc : tg = .reg .cmd
    · subst hc
      obtain ⟨rfl, rfl⟩ := (busTarget_reg_iff _ _ _ _).1 ht
      rw [show Reg.cmd.offset = 0x008 from rfl, memWrite_cmd] at h
      rcases issue_cases v s with ⟨hb, e⟩ | ⟨hb, he, e⟩ | ⟨hb, he, hd, e⟩ | ⟨hb, he, i, hd, e⟩
      · rw [e] at h; cases h; exact .inl ⟨_, rfl, hb, rfl, rfl⟩
      · rw [e] at h; cases h; exact .inr (.inr (.inl ⟨rfl, rfl, hb, he, rfl⟩))
      · rw [e] at h; cases h; exact .inr (.inr (.inr (.inl ⟨rfl, rfl, hb, he, hd, rfl⟩)))
      · rw [e] at h; exact .inr (.inr (.inr (.inr ⟨rfl, rfl, hb, he, i, hd, h⟩)))
    · rw [memWrite_of_target ht hc] at h
      simp only [Host.Outcome.next.injEq] at h
      cases hb : s.busy <;> cases hr : refusedWhileBusy tg <;> simp [hb, hr] at h
      · exact .inr (.inl ⟨tg, rfl, hc, .inl rfl, h.symm⟩)
      · exact .inr (.inl ⟨tg, rfl, hc, .inl rfl, h.symm⟩)
      · exact .inr (.inl ⟨tg, rfl, hc, .inr hr, h.symm⟩)
      · exact .inl ⟨tg, rfl, rfl, hr, h.symm⟩

/-- Which agent moved, when a step answers a next state. -/
theorem step_cases {s t : State} (h : step s = .next t) :
    (nextTurn s = .host ∧ hostTurn (passTurn s) = .next t) ∨
    (nextTurn s = .engine ∧ t = engineTurn (passTurn s)) ∨
    (∃ ok, nextTurn s = .sink ok ∧ t = sinkTurn ok (passTurn s)) ∨
    (nextTurn s = .reset ∧ t = resetTurn (passTurn s)) := by
  unfold step at h
  cases hn : nextTurn s <;> rw [hn] at h <;> simp_all

end Sys2Proof.Machine
end

