-- ==== Sys2Proof/Tests/Slice0.lean ====
section
/-! SUPPORT. Tests: terms WellFormed refuses, words and values worked by hand from the spec's encodings and from
spec/95_test_vectors.md, and for every statement with hypotheses a state that meets them. -/

namespace Sys2Proof.Machine.Tests

open Sys2Proof Sys2Proof.Machine

/-! ### WellFormed refuses -/

theorem test_wf_access_offset : (HostOp.read 0x20000 4).wf = false ∧ (HostOp.write 0x20000 1 0).wf = false := by decide
theorem test_wf_access_size : (HostOp.read 0x100 3).wf = false ∧ (HostOp.write 0x100 8 0).wf = false := by decide
theorem test_wf_write_data : (HostOp.write 0x100 1 0x100#32).wf = false ∧ (HostOp.write 0x100 2 0x10000#32).wf = false := by
  decide
theorem test_wf_line_offset : (Line.wr 0x20000 0).wf Params.default = false ∧ (Line.wr16 0x20000 0).wf Params.default = false ∧
    (Line.wr8 0x20000 0).wf Params.default = false ∧ (Line.rd 0x20000).wf Params.default = false := by decide
theorem test_wf_loadrow_row : (Line.loadrow 6 []).wf Params.default = false := by decide
theorem test_wf_loadrow_length : (Line.loadrow 0 (List.replicate 9 0)).wf { Params.default with fbMaxCols := 64 } = false := by
  decide
theorem test_wf_loadlast : (Line.loadlast [0, 1]).wf Params.default = false := by decide
theorem test_wf_accepts : (HostOp.write 0x1FFFF 1 0xFF#32).wf = true ∧ (HostOp.read 0 4).wf = true ∧ HostOp.wait.wf = true ∧
    (Line.loadrow 5 [1]).wf Params.default = true ∧ (Line.run (.animate true true)).wf Params.default = true := by decide

/-! ### Decoding (spec/30_encoding.md R64 to R67, V-W1) -/

/-- OP in bits 3:0, T in bit 8, H in bit 9, the rest 0. -/
theorem test_decode_control : decode 0b0000000000000000000000_0_0_0000_0000#32 = .ok .nop ∧
    decode 0b0000000000000000000000_0_0_0000_0011#32 = .ok .lastClear ∧
    decode 0b0000000000000000000000_0_0_0000_0100#32 = .ok .lastSet ∧
    decode 0b0000000000000000000000_0_0_0000_0101#32 = .ok .lastBlank := ⟨rfl, rfl, rfl, rfl⟩

theorem test_decode_encoder : decode 0b0000000000000000000000_0_0_0000_0001#32 = .ok .encode := rfl

theorem test_decode_scroll : decode 0b0000000000000000000000_0_1_0000_0010#32 = .ok (.animate true false) ∧
    decode 0b0000000000000000000000_1_0_0000_0010#32 = .ok (.animate false true) ∧
    decode 0b0000000000000000000000_1_1_0000_0010#32 = .ok (.animate true true) ∧
    decode 0b0000000000000000000000_0_0_0000_0010#32 = .ok (.animate false false) := ⟨rfl, rfl, rfl, rfl⟩

/-- The illegal words of V-W1, each with the class R70 puts it in. -/
theorem test_decode_illegal : decode 0x6#32 = .error .reservedOpcode ∧ decode 0xF#32 = .error .reservedOpcode ∧
    decode 0x10#32 = .error .reservedBits ∧ decode 0x402#32 = .error .reservedBits ∧
    decode 0x80000002#32 = .error .reservedBits ∧ decode 0x101#32 = .error .flagsOutsideAnimate ∧
    decode 0x205#32 = .error .flagsOutsideAnimate := ⟨rfl, rfl, rfl, rfl, rfl, rfl, rfl⟩

/-- R67's formula agrees with the decoder on the words of V-W1. -/
theorem test_legal : legal 0x302#32 = true ∧ legal 0x301#32 = false ∧ legal 0x6#32 = false ∧ legal 0x5#32 = true ∧
    legal 0x82#32 = false := by decide

theorem test_table_words : decodeTableWord 32 0x302 = some (.animate true true) ∧ decodeTableWord 32 0x7 = none ∧
    decodeTableWord 32 0x5 = some .lastBlank := by decide

/-! ### States to test on -/

/-- The outcome is a next state with the property. -/
def ends (o : Host.Outcome State Fault Refusal) (p : State → Bool) : Bool :=
  match o with
  | .next s => p s
  | .fault _ => false
  | .refused _ => false

/-- The outcome is a BusError. -/
def faults (o : Host.Outcome State Fault Refusal) : Bool :=
  match o with
  | .next _ => false
  | .fault .busError => true
  | .refused _ => false

/-- Parameters with a small frame buffer, `d` deep a queue. -/
def smallParams (cols d : Nat) : Params := { Params.default with fbMaxCols := cols, outDepth := d }

/-- A frame buffer of `cols` columns whose byte `b` of row `r` is `f r b`, every byte written, the delays of
spec/95_test_vectors.md, and WIDTH `w`. -/
def loaded (cols : Nat) (w : Half) (f : Nat → Nat → Byte) : State :=
  { State.reset with
    params := smallParams cols 1
    width := w
    rsDelay := 10
    csDelay := 20
    initDelay := 30
    holdDelay := 40
    fb := (List.range 6).flatMap fun r => (List.range (cols / 8)).map fun b => (0x10000 + r * (cols / 8) + b, f r b) }

/-- A running ANIMATE of two items, the next one item `p`. -/
def running (p : Nat) : State :=
  { State.reset with
    busy := true
    ecmd := .ani
    cmdItems := [.frame (List.replicate 48 0), .delay .cs 20]
    pos := p
    items := BitVec.ofNat 32 p
    pendingLast := Vector.replicate 48 0xFF#8 }

/-- A running ENCODE of one item. -/
def encoding : State :=
  { State.reset with busy := true, ecmd := .enc, cmdItems := [.frame [1, 2, 3, 4, 5, 6]] }

/-- The next turns. -/
def onTurns (ts : List Turn) (s : State) : State := { s with turns := ts }

/-- A host turn with this access next. -/
def onAccess (op : HostOp) (s : State) : State := { s with turns := [.host], hostProg := [op] }

/-- A state with an error outstanding. -/
def failed : State := { State.reset with err := true, errCode := .sinkFailure }

/-! ### Packing and ENCODE (V-ENC1 to V-ENC4, V-RT1) -/

/-- V-RT1, row 0 and row 5. -/
theorem test_enc : enc (fun r c => (r == 0 && (c == 0 || c == 2 || c == 3 || (12 ≤ c && c ≤ 15))) ||
    (r == 5 && (c == 0 || c == 7))) 16 = [0x0D, 0xF0, 0, 0, 0, 0, 0, 0, 0, 0, 0x81, 0] := by decide

/-- V-ENC3. -/
theorem test_encode : ends (exec .encode (loaded 64 8 fun r b => if r = 0 ∧ b = 0 then 0x0D else 0)) (fun t =>
    t.cmdItems == [.frame [0x0D, 0, 0, 0, 0, 0]] && t.busy && t.items == 0 && t.ecmd == .enc) = true := by decide

/-- V-ENC4: 12 is no multiple of 8, 0 is rejected, and 72 is above 64. -/
theorem test_encode_geometry :
    ends (exec .encode (loaded 64 12 fun _ _ => 0)) (fun t => statusWord t == 0x22#32 && t.errInfo == 0xC#32) = true ∧
    ends (exec .encode (loaded 64 0 fun _ _ => 0)) (fun t => statusWord t == 0x22#32 && t.errInfo == 0#32) = true ∧
    ends (exec .encode (loaded 64 72 fun _ _ => 0)) (fun t => statusWord t == 0x22#32 && t.errInfo == 0x48#32) = true := by
  decide

/-! ### ANIMATE (V-A1 to V-A8, V-RS1, V-RS2) -/

/-- The frame whose row 0 has the bytes given and whose other rows are 0. -/
def topRow (bs : List Byte) : List Byte := bs ++ List.replicate 40 0

set_option maxRecDepth 8000 in
/-- V-A4: columns at and above W are padding, whatever FB holds there; and V-A8: the raw width is checked before
truncation. -/
theorem test_animate_pads_and_checks :
    ends (exec (.animate false false) (loaded 64 20 fun r _ => if r = 0 then 0xFF else 0)) (fun t =>
      t.cmdItems == [.frame (topRow [0xFF, 0xFF, 0x0F, 0, 0, 0, 0, 0]), .delay .cs 20]) = true ∧
    ends (exec (.animate true false) (loaded 64 5000 fun _ _ => 0)) (fun t =>
      statusWord t == 0x22#32 && t.errInfo == 0x1388#32 && t.cmdItems == []) = true := by decide

set_option maxRecDepth 16000 in
/-- V-A3 with W = 67, so n = 3: column 64 enters at the right and moves left by one column a window. -/
theorem test_animate_slides : ends (exec (.animate false false)
    (loaded 72 67 fun r b => if r = 0 ∧ b = 8 then 0x01 else 0)) (fun t =>
    t.cmdItems == [.frame (topRow [0, 0, 0, 0, 0, 0, 0, 0]), .delay .cs 20,
      .frame (topRow [0, 0, 0, 0, 0, 0, 0, 0x80]), .delay .cs 20,
      .frame (topRow [0, 0, 0, 0, 0, 0, 0, 0x40]), .delay .cs 20] &&
    t.pendingLast.toList == topRow [0, 0, 0, 0, 0, 0, 0, 0x40]) = true := by decide

/-- V-A2: rows of A0 … A5 make way for rows of B0 … B5; frame 1 begins with row A2 and ends with B0, B1. -/
theorem test_row_shift : (List.range 6).map (fun r => packByte
      (inter 1 (fun r c => (0xA0#8 + BitVec.ofNat 8 r).getLsbD (c % 8)) fun r c => (0xB0#8 + BitVec.ofNat 8 r).getLsbD (c % 8))
      r 0) = [0xA2, 0xA3, 0xA4, 0xA5, 0xB0, 0xB1] := by decide

/-- V-A1, the shapes at W = 64, 65, 66 and 70 with `last`, by length, and V-A5's delay. -/
theorem test_animate_lengths :
    (curtainItems { loaded 64 64 (fun _ _ => 0) with lastValid := true } 64).length = 12 ∧
    (curtainItems { loaded 64 64 (fun _ _ => 0) with lastValid := true } 65).length = 13 ∧
    windowCount 0 = 1 ∧ windowCount 64 = 1 ∧ windowCount 65 = 1 ∧ windowCount 66 = 2 ∧ windowCount 70 = 6 ∧
    windowCount 4096 = 4032 ∧ effWidth true 200 = 64 ∧ effWidth true 16 = 16 := by decide

/-! ### Control commands (V-C1 to V-C3) -/

theorem test_nop : ends (memWrite 0x008 4 0 { State.reset with lastValid := true }) (fun t => statusWord t == 0x08#32) = true := by
  decide

theorem test_last_clear : ends (exec .lastClear { State.reset with lastValid := true, lastBuf := Vector.replicate 48 0xFF })
    (fun t => !t.lastValid && t.lastBuf.toList == List.replicate 48 0xFF) = true := by decide

theorem test_last_set : ends (exec .lastSet { State.reset with lastBuf := Vector.replicate 48 0xFF })
    (fun t => t.lastValid && t.lastBuf.toList == List.replicate 48 0xFF) = true := by decide

theorem test_last_blank : ends (exec .lastBlank { State.reset with lastBuf := Vector.replicate 48 0xFF })
    (fun t => t.lastValid && t.lastBuf.toList == List.replicate 48 0) = true := by decide

/-! ### Errors and the sink (V-W2, V-X1 to V-X5) -/

/-- V-W2, second and third points. -/
theorem test_priority : ends (memWrite 0x008 4 0x7 (running 1)) (fun t => statusWord t == 0x05#32) = true ∧
    ends (memWrite 0x008 4 0x7 failed) (fun t => statusWord t == 0x32#32 && t.errInfo == 0#32) = true ∧
    ends (memWrite 0x008 4 0x11 { State.reset with width := 12 }) (fun t => statusWord t == 0x42#32 && t.errInfo == 0x11#32) =
      true := by decide

/-- V-X1, step 4: a failure in the middle of a command. -/
theorem test_sink_failure_aborts : ends (step (onTurns [.sink false] { running 1 with q := [.delay .rs 10], lastValid := true }))
    (fun t => statusWord t == 0x3A#32 && t.errInfo == 0#32 && t.items == 1#32 && t.q == [] &&
      t.delivered == [(.delay .rs 10, false)] && t.lastBuf == blankFrame) = true := by decide

/-- V-X2, step 3: the engine step of the last item completes the command. -/
theorem test_engine_completes : ends (step (onTurns [.engine] (running 1))) (fun t =>
    statusWord t == 0x08#32 && t.items == 2#32 && t.lastBuf.toList == List.replicate 48 0xFF && t.q == [.delay .cs 20]) =
      true := by decide

/-- V-X3: the first error stays. -/
theorem test_first_error : ends (step (onTurns [.sink false] { State.reset with
    err := true, errCode := .illegalCommand, errInfo := 7, q := [.delay .cs 20] })) (fun t =>
    statusWord t == 0x42#32 && t.errInfo == 7#32 && t.q == []) = true := by decide

/-- V-X4: WIDTH is refused while BUSY, and STATUS is not. -/
theorem test_busy_writes : ends (memWrite 0x010 4 8 { running 1 with width := 70 }) (fun t =>
    statusWord t == 0x05#32 && t.width == 70) = true ∧
    ends (memWrite 0x00C 4 4 { running 1 with bwe := true }) (fun t => statusWord t == 0x01#32) = true := by decide

/-- V-X5, step 3: only ERR and BWE can be cleared. -/
theorem test_recovery : ends (memWrite 0x00C 4 0xFFFFFFFF { State.reset with
    err := true, bwe := true, lastValid := true, errCode := .illegalCommand }) (fun t => statusWord t == 0x48#32) = true := by
  decide

/-! ### The bus (V-M1 to V-M3) and reset (V-R1) -/

/-- V-M1. -/
theorem test_lanes : ends (memWrite 0x10000 4 0x04030201 State.reset) (fun t => memRead t 0x10000 2 == some 0x0201#32 &&
    memRead t 0x10002 1 == some 0x03#32 && fbBit t 0 0 && fbBit t 0 9 && !fbBit t 0 8 && fbBit t 0 26) = true := by decide

/-- V-M2, registers. -/
theorem test_registers : memRead State.reset 0x000 4 = some 0x4C454446#32 ∧
    memRead State.reset 0x004 4 = some 0x00011000#32 ∧ memRead State.reset 0x008 4 = some 0#32 ∧
    memRead State.reset 0x00C 1 = none ∧ memRead State.reset 0x00E 4 = none ∧ memRead State.reset 0x02C 4 = none ∧
    ends (memWrite 0x010 4 0xFFFF1234 State.reset) (fun t => memRead t 0x010 4 == some 0x1234#32) = true := by decide

/-- V-M2, the windows. -/
theorem test_windows : ends (memWrite 0x12C 4 0x11223344 State.reset) (fun t =>
      t.lastBuf.toList.drop 44 == [0x44, 0x33, 0x22, 0x11]) = true ∧
    memRead State.reset 0x101 2 = none ∧ memRead State.reset 0x130 1 = none ∧ memRead State.reset 0x1FFFC 4 = none ∧
    faults (memWrite 0x12E 4 0 State.reset) = true ∧ ends (memWrite 0x10BFF 1 0 State.reset) (fun _ => true) = true ∧
    faults (memWrite 0x10C00 1 0 State.reset) = true := by decide

/-- V-M3: with STRIDE 9 one access spans two rows. -/
theorem test_stride_nine : ends (memWrite 0x10008 4 0xDDCCBBAA { State.reset with params := smallParams 72 1 }) (fun t =>
      memRead t 0x10008 1 == some 0xAA#32 && memRead t 0x10009 1 == some 0xBB#32 && memRead t 0x1000B 1 == some 0xDD#32) = true ∧
    memRead { State.reset with params := smallParams 72 1 } 0x10036 1 = none ∧
    (memRead { State.reset with params := smallParams 72 1 } 0x10035 1).isSome = true := by decide

/-! ### A step (R5, R69, R74) -/

/-- The first command after reset: ANIMATE of width 0 (V-A1, first row), ENCODE of width 0 (V-ENC4), and an illegal word
(V-W1). -/
theorem test_first_command :
    ends (step (State.reset.withFetchWord 32 0x2)) (fun t =>
      t.cmdItems == [.frame (List.replicate 48 0), .delay .cs 0] && statusWord t == 0x01#32) = true ∧
    ends (step (State.reset.withFetchWord 32 0x1)) (fun t => statusWord t == 0x22#32) = true ∧
    ends (step (State.reset.withFetchWord 32 0x7)) (fun t => statusWord t == 0x42#32 && t.errInfo == 7#32) = true := by decide

/-- WAIT reads STATUS until BUSY is 0. -/
theorem test_wait : ends (step (onAccess .wait (running 1))) (fun t => t.hostProg == [.wait] && t.busResp == .data 1#32) = true ∧
    ends (step (onAccess .wait State.reset)) (fun t => t.hostProg == [] && t.busResp == .data 0#32) = true := by decide

/-- R73, R74: lines and the accesses they stand for. -/
theorem test_lines : expandLine Params.default .clrerr = [.write 0x00C 4 6] ∧
    expandLine Params.default (.loadrow 1 [0x0D, 0xF0]) = [.write 0x10200 1 0x0D, .write 0x10201 1 0xF0] ∧
    expandLine Params.default (.run (.animate true true)) = [.write 0x008 4 0x302, .wait] ∧
    (expandLine Params.default (.loadlast (List.replicate 48 7))).getLast? = some (.write 0x12F 1 7) := by decide

/-! ### Witnesses: for each statement with hypotheses, data that meets them, clause by clause -/

theorem witness_ResetTurnRestoresTheBlock : nextTurn (onTurns [.reset] (running 1)) = .reset := by decide

theorem witness_StepRunsTheDecodedCommand :
    nextTurn (onAccess (.write 0x008 4 0x302) State.reset) = .host ∧ (onAccess (.write 0x008 4 0x302) State.reset).busy = false ∧
    (onAccess (.write 0x008 4 0x302) State.reset).err = false ∧
    (onAccess (.write 0x008 4 0x302) State.reset).hostProg = .write 0x008 4 0x302 :: [] ∧
    decode 0x302 = .ok (.animate true true) := ⟨by decide, rfl, rfl, rfl, rfl⟩

/-- A legal read, an illegal one, a write, WAIT while BUSY and while idle, and nothing left to do. -/
theorem witness_HostTurnIsBusAccess :
    nextTurn (onAccess (.read 0x12F 1) State.reset) = .host ∧ memRead (onAccess (.read 0x12F 1) State.reset) 0x12F 1 = some 0 ∧
    nextTurn (onAccess (.read 0x130 1) State.reset) = .host ∧ memRead (onAccess (.read 0x130 1) State.reset) 0x130 1 = none ∧
    nextTurn (onAccess (.write 0x010 4 9) State.reset) = .host ∧
    nextTurn (onAccess .wait (running 1)) = .host ∧ (onAccess .wait (running 1)).busy = true ∧
    nextTurn (onAccess .wait State.reset) = .host ∧ (onAccess .wait State.reset).busy = false ∧
    nextTurn (onTurns [.host] State.reset) = .host ∧ (onTurns [.host] State.reset).hostProg = [] := by decide

/-- No command has a word with OP above 5, or with a reserved bit set. -/
theorem word_six_is_no_command (i : Instr) : 0x6#32 ≠ encode i ∧ 0x11#32 ≠ encode i := by
  cases i with
  | animate t h => cases t <;> cases h <;> decide
  | nop => decide
  | encode => decide
  | lastClear => decide
  | lastSet => decide
  | lastBlank => decide

/-- Each of the five outcomes; the geometry is bad at 0, at no multiple of 8, and just above FB_MAX_COLS. -/
theorem witness_CommandPriority :
    (running 1).busy = true ∧ failed.busy = false ∧ failed.err = true ∧
    State.reset.busy = false ∧ State.reset.err = false ∧ (∀ i, 0x6#32 ≠ encode i) ∧
    State.reset.width.toNat = 0 ∧ (loaded 64 12 fun _ _ => 0).width.toNat % 8 ≠ 0 ∧
    (loaded 64 65 fun _ _ => 0).params.fbMaxCols < (loaded 64 65 fun _ _ => 0).width.toNat ∧
    (loaded 64 65 fun _ _ => 0).busy = false ∧ (loaded 64 65 fun _ _ => 0).err = false ∧ 0x302#32 = encode (.animate true true) :=
  ⟨rfl, rfl, rfl, rfl, rfl, fun i => (word_six_is_no_command i).1, rfl, by decide, by decide, rfl, rfl, rfl⟩

/-- The first reserved opcode, each kind of reserved bit, and a flag outside ANIMATE. -/
theorem witness_IllegalWordRecordsItself : State.reset.busy = false ∧ State.reset.err = false ∧
    6 ≤ (0x6#32).toNat % 16 ∧ (0x10#32).toNat / 16 % 16 ≠ 0 ∧ (0x400#32).toNat / 1024 ≠ 0 ∧
    (0x101#32).toNat % 16 ≠ 2 ∧ (0x101#32).toNat / 256 % 4 ≠ 0 := by decide

theorem witness_NopChangesNothing : State.reset.busy = false ∧ (running 1).busy = true := by decide

theorem witness_LastClearMakesLastNone : State.reset.params.legal ∧ (smallParams 64 1).legal ∧ (smallParams 65528 1).legal ∧
    lastAccess 0x12C 4 := by decide

theorem witness_LastSetMarksTheBuffer : ({ State.reset with lastValid := true } : State).lastValid = true := by decide

/-- FB with every column lit. -/
abbrev allLit : State := loaded 64 64 fun _ _ => 0xFF

set_option maxRecDepth 8000 in
theorem witness_LastBlankMakesLastUnlit : allLit.params.legal ∧ ∀ r < 6, ∀ c < 64, fbBit allLit r c = true := by decide

theorem witness_ControlCommandsAreAtomic :
    nextTurn (onAccess (cmdOp .lastBlank) State.reset) = .host ∧ (onAccess (cmdOp .lastBlank) State.reset).busy = false ∧
    (onAccess (cmdOp .lastBlank) State.reset).err = false ∧
    (onAccess (cmdOp .lastBlank) State.reset).hostProg = cmdOp .lastBlank :: [] := by decide

theorem witness_EncodedBytesInRowAndGroupOrder : 64 % 8 = 0 ∧ 5 < 6 ∧ 7 < 64 / 8 ∧ 8 % 8 = 0 ∧ 0 < 8 / 8 := by decide

theorem witness_PackingRoundTrip : 8 % 8 = 0 ∧ (List.replicate 6 (0 : Byte)).length = 6 * 8 / 8 ∧
    ([0x81, 2, 3, 4, 5, 6] : List Byte)[5 * (8 / 8) + 7 / 8]? = some 6 := by decide

/-- W = 8 and W = FB_MAX_COLS. -/
theorem witness_EncodeIsAccepted :
    ((loaded 64 8 fun _ _ => 0).width.toNat ≠ 0 ∧ (loaded 64 8 fun _ _ => 0).width.toNat % 8 = 0 ∧
      (loaded 64 8 fun _ _ => 0).width.toNat ≤ (loaded 64 8 fun _ _ => 0).params.fbMaxCols) ∧
    ((loaded 64 64 fun _ _ => 0).width.toNat ≠ 0 ∧ (loaded 64 64 fun _ _ => 0).width.toNat % 8 = 0 ∧
      (loaded 64 64 fun _ _ => 0).width.toNat ≤ (loaded 64 64 fun _ _ => 0).params.fbMaxCols) := by decide

theorem witness_EncodeGeometryCheck :
    (loaded 64 12 fun _ _ => 0).err = false ∧ (loaded 64 12 fun _ _ => 0).width.toNat % 8 ≠ 0 ∧
    (loaded 64 0 fun _ _ => 0).err = false ∧ (loaded 64 0 fun _ _ => 0).width.toNat = 0 ∧
    (loaded 64 72 fun _ _ => 0).err = false ∧
    (loaded 64 72 fun _ _ => 0).params.fbMaxCols < (loaded 64 72 fun _ _ => 0).width.toNat ∧
    (loaded 64 64 fun _ _ => 0).err = false ∧
    ¬((loaded 64 64 fun _ _ => 0).width.toNat % 8 ≠ 0 ∨ (loaded 64 64 fun _ _ => 0).width.toNat = 0 ∨
      (loaded 64 64 fun _ _ => 0).params.fbMaxCols < (loaded 64 64 fun _ _ => 0).width.toNat) := by decide

theorem witness_RowShiftStacksRows : 0 ≤ 5 ∧ 5 ≤ 5 := by decide

theorem witness_WindowSlidesOneColumn : 5 < 6 ∧ 62 < 63 ∧ 63 < 64 := by decide

/-- W = 0, W = FB_MAX_COLS = 72 with and without truncation. -/
theorem witness_AnimateWithoutLast :
    ((loaded 72 0 fun _ _ => 0).width.toNat ≤ (loaded 72 0 fun _ _ => 0).params.fbMaxCols ∧
      (loaded 72 0 fun _ _ => 0).lastValid = false ∧ 0 = (loaded 72 0 fun _ _ => 0).width.toNat ∧ 1 = max (0 - 64) 1) ∧
    ((loaded 72 72 fun _ _ => 0).width.toNat ≤ (loaded 72 72 fun _ _ => 0).params.fbMaxCols ∧
      (loaded 72 72 fun _ _ => 0).lastValid = false ∧ 72 = (loaded 72 72 fun _ _ => 0).width.toNat ∧ 8 = max (72 - 64) 1) ∧
    (64 = min (loaded 72 72 fun _ _ => 0).width.toNat 64 ∧ 1 = max (64 - 64) 1) := by decide

/-- The same with a `last`. -/
def withLast (w : Half) : State := { loaded 72 w (fun _ _ => 0) with lastValid := true, lastBuf := Vector.replicate 48 0xA5 }

/-- W = 64 (no INIT), 65 (INIT, no further window) and 66 (INIT and one further window). -/
theorem witness_AnimateWithLast :
    (withLast 64).params.specReading ∧ (withLast 64).width.toNat ≤ (withLast 64).params.fbMaxCols ∧
      (withLast 64).lastValid = true ∧ 64 = (withLast 64).width.toNat ∧ 1 = max (64 - 64) 1 ∧ ¬ 64 < 64 ∧
    (withLast 65).params.specReading ∧ (withLast 65).width.toNat ≤ (withLast 65).params.fbMaxCols ∧
      (withLast 65).lastValid = true ∧ 65 = (withLast 65).width.toNat ∧ 1 = max (65 - 64) 1 ∧ 64 < 65 ∧
    (withLast 66).params.specReading ∧ (withLast 66).width.toNat ≤ (withLast 66).params.fbMaxCols ∧
      (withLast 66).lastValid = true ∧ 66 = (withLast 66).width.toNat ∧ 2 = max (66 - 64) 1 ∧ 64 < 66 ∧ 1 ≤ 1 ∧ 1 < 2 := by
  decide

theorem witness_AnimateItemCounts :
    (withLast 66).params.legal ∧ (withLast 66).params.specReading ∧ (withLast 66).width.toNat ≤ (withLast 66).params.fbMaxCols ∧
      66 = (withLast 66).width.toNat ∧ 2 = max (66 - 64) 1 ∧ (1 = if (withLast 66).lastValid = true ∧ 64 < 66 then 1 else 0) ∧
    (loaded 64 64 fun _ _ => 0).params.legal ∧ (loaded 64 64 fun _ _ => 0).params.specReading ∧
      (0 = if (loaded 64 64 fun _ _ => 0).lastValid = true ∧ 64 < 64 then 1 else 0) := by decide

/-- U22's other reading and U23's, at the one width where the gates differ: the width gate is open there, the steps gate
is not, and opens at the next width. -/
theorem witness_AnimateOtherReadings :
    let s (w : Half) (g : InitGate) : State := { withLast w with
      params := { smallParams 72 1 with rsDelays := .five, initGate := g } }
    (s 65 .steps).width.toNat ≤ (s 65 .steps).params.fbMaxCols ∧ (s 65 .steps).lastValid = true ∧
      65 = (s 65 .steps).width.toNat ∧ 1 = max (65 - 64) 1 ∧ ¬ 1 < 1 ∧
    (s 65 .width).params.initGate = .width ∧ 64 < 65 ∧
    (s 66 .steps).width.toNat ≤ (s 66 .steps).params.fbMaxCols ∧ (s 66 .steps).params.initGate ≠ .width ∧
      2 = max (66 - 64) 1 ∧ 1 < 2 := by decide

theorem witness_PendingLastIsTheLastFrame : (withLast 72).width.toNat ≤ (withLast 72).params.fbMaxCols := by decide

theorem witness_AnimateGeometryCheck :
    (loaded 72 73 fun _ _ => 0).err = false ∧
    (loaded 72 73 fun _ _ => 0).params.fbMaxCols < (loaded 72 73 fun _ _ => 0).width.toNat ∧
    (loaded 72 72 fun _ _ => 0).err = false ∧
    ¬(loaded 72 72 fun _ _ => 0).params.fbMaxCols < (loaded 72 72 fun _ _ => 0).width.toNat := by decide

set_option maxRecDepth 16000 in
/-- Two frame buffers that differ at column 65 of row 0 only, with W = 66: columns 0 … 64 are the coverage. -/
theorem witness_AnimateShowsOnlyTheCoverage :
    let s := loaded 72 66 fun _ b => if b = 8 then 0x01 else 0xFF
    let u := loaded 72 66 fun r b => if b = 8 then (if r = 0 then 0x03 else 0x01) else 0xFF
    s.width.toNat ≤ s.params.fbMaxCols ∧ 66 = s.width.toNat ∧ 2 = max (66 - 64) 1 ∧
    (∀ r < 6, ∀ c < (if 66 ≤ 64 then 66 else 2 + 63), fbBit { s with fb := u.fb, fbDraw := s.fbDraw } r c = fbBit s r c) ∧
    fbBit { s with fb := u.fb, fbDraw := s.fbDraw } 0 65 ≠ fbBit s 0 65 := by decide

/-- A command that ends in an error entry: ERR changes. -/
theorem witness_CommandsLeaveTheRest : Instr.encode ≠ .lastBlank ∧
    ends (exec .encode State.reset) (fun t => t.err != State.reset.err) = true := by decide

/-- An item before the last, the last of an ANIMATE, and the last of an ENCODE. -/
theorem witness_EngineStepEnqueuesTheNextItem :
    (nextTurn (onTurns [.engine] (running 0)) = .engine ∧ (running 0).busy = true ∧
      (running 0).cmdItems[(running 0).pos]? = some (.frame (List.replicate 48 0)) ∧
      (running 0).q.length < (running 0).params.outDepth ∧ (running 0).pos + 1 ≠ (running 0).cmdItems.length) ∧
    ((running 1).cmdItems[(running 1).pos]? = some (.delay .cs 20) ∧ (running 1).q.length < (running 1).params.outDepth ∧
      (running 1).pos + 1 = (running 1).cmdItems.length ∧ (running 1).ecmd = .ani) ∧
    (nextTurn (onTurns [.engine] encoding) = .engine ∧ encoding.busy = true ∧
      encoding.cmdItems[encoding.pos]? = some (.frame [1, 2, 3, 4, 5, 6]) ∧ encoding.q.length < encoding.params.outDepth ∧
      encoding.pos + 1 = encoding.cmdItems.length ∧ encoding.ecmd ≠ .ani) := by decide

theorem witness_EngineWaitsForRoom : nextTurn (onTurns [.engine] State.reset) = .engine ∧ State.reset.busy = false ∧
    ({ running 1 with q := [.delay .rs 1] } : State).params.outDepth ≤ ({ running 1 with q := [.delay .rs 1] } : State).q.length := by
  decide

theorem witness_SinkTakesTheHead :
    nextTurn (onTurns [.sink true] { State.reset with q := [.delay .rs 1] }) = .sink true ∧
    nextTurn (onTurns [.sink false] { State.reset with q := [.delay .rs 1] }) = .sink false ∧
    nextTurn (onTurns [.sink true] State.reset) = .sink true ∧ (onTurns [.sink true] State.reset).q = [] := by decide

/-- Each pairing of BUSY and ERR. -/
theorem witness_SinkFailureAbortsAndRecords :
    nextTurn (onTurns [.sink false] { running 1 with q := [.delay .rs 1] }) = .sink false ∧
    ({ running 1 with q := [.delay .rs 1] } : State).q = .delay .rs 1 :: [] ∧
    (running 1).busy = true ∧ (running 1).err = false ∧ ({ running 1 with err := true } : State).err = true ∧
    State.reset.busy = false ∧ State.reset.err = false ∧ failed.busy = false ∧ failed.err = true := by decide

/-- Two engine turns and two of the sink, one of them with nothing to take. -/
theorem witness_CommandDeliversItsItemList :
    let s := onTurns [.sink true, .engine, .sink true, .engine, .sink true] (running 0)
    s.busy = true ∧ s.turns = [.sink true, .engine, .sink true, .engine, .sink true] ++ [] ∧
    (∀ x ∈ [Turn.sink true, .engine, .sink true, .engine, .sink true], goesOn x = true) ∧
    ends (Host.Core.run Sys2Proof.core 5 s) (fun t => !t.busy && t.q == [] && t.delivered.length == 2) = true := by decide

theorem inv_running : Inv (onTurns (List.replicate 2 .engine) { running 0 with params := smallParams 64 2 }) := by
  constructor <;> decide

theorem inv_encoding : Inv (onTurns [.engine] encoding) := by
  constructor <;> decide

/-- A running ANIMATE, and a running ENCODE. -/
theorem witness_CommandCompletesWithRoom :
    (let s := onTurns (List.replicate 2 .engine) { running 0 with params := smallParams 64 2 }
     Inv s ∧ s.busy = true ∧ s.cmdItems.length - s.pos ≤ s.params.outDepth - s.q.length ∧
     s.turns = List.replicate (s.cmdItems.length - s.pos) .engine ++ [] ∧ s.ecmd = .ani) ∧
    (let s := onTurns [.engine] encoding
     Inv s ∧ s.busy = true ∧ s.cmdItems.length - s.pos ≤ s.params.outDepth - s.q.length ∧
     s.turns = List.replicate (s.cmdItems.length - s.pos) .engine ++ [] ∧ s.ecmd = .enc) :=
  ⟨⟨inv_running, by decide⟩, ⟨inv_encoding, by decide⟩⟩

/-- The last legal places of each window and the first illegal ones. -/
theorem witness_BusErrorExactlyOnIllegalAccess : legalAccess (smallParams 72 1) 0x028 4 ∧
    ¬legalAccess (smallParams 72 1) 0x02C 4 ∧ legalAccess (smallParams 72 1) 0x12F 1 ∧ ¬legalAccess (smallParams 72 1) 0x12F 2 ∧
    legalAccess (smallParams 72 1) 0x10035 1 ∧ ¬legalAccess (smallParams 72 1) 0x10034 4 ∧
    ¬legalAccess (smallParams 72 1) 0x020000 4 :=
  ⟨by decide, by decide, by decide, by decide, by decide, by decide, by decide⟩

theorem witness_RegistersReadBack : State.reset.params.legal ∧ (smallParams 65528 1000).legal := by decide

theorem witness_RegisterWritesStore : State.reset.busy = false := rfl

theorem witness_StatusWriteClearsByOnes : (0x2#32).toNat / 2 % 2 = 1 ∧ failed.busy = false := by decide

theorem witness_ReadOnlyWritesAreIgnored : (0x028 : Nat) = 0x000 ∨ (0x028 : Nat) = 0x004 ∨ (0x028 : Nat) = 0x014 ∨
    (0x028 : Nat) = 0x028 := by decide

theorem witness_WritesWhileBusyAreRefused : (running 1).busy = true ∧ lastAccess 0x12E 2 ∧
    fbAccess (running 1).params 0x10BFF 1 ∧ legalAccess (running 1).params 0x00C 4 := by decide

theorem witness_ReadsHaveNoSideEffects :
    nextTurn (onAccess (.read 0x10BFC 4) State.reset) = .host ∧
    (onAccess (.read 0x10BFC 4) State.reset).hostProg = .read 0x10BFC 4 :: [] ∧
    legalAccess (onAccess (.read 0x10BFC 4) State.reset).params 0x10BFC 4 := by decide

/-- The first and the last place of the FB window, at each width. -/
theorem witness_FbWriteStoresLittleEndian : State.reset.busy = false ∧ fbAccess State.reset.params 0x10000 4 ∧
    fbAccess State.reset.params 0x10BFE 2 ∧ fbAccess State.reset.params 0x10BFF 1 ∧ Memory.wf State.reset.fb ∧
    ¬(0x10000 ≤ 0x10004 ∧ 0x10004 < 0x10000 + 4) := by decide

theorem witness_LastWriteStoresLittleEndian : State.reset.busy = false ∧ lastAccess 0x100 4 ∧ lastAccess 0x12C 4 ∧
    lastAccess 0x12E 2 ∧ lastAccess 0x12F 1 ∧ ¬(0x12C - 0x100 ≤ 43 ∧ 43 < 0x12C - 0x100 + 4) := by decide

theorem witness_WindowReadsLittleEndian : fbAccess (smallParams 72 1) 0x10032 2 ∧ lastAccess 0x100 1 := by decide

/-- The last byte of the last row. -/
theorem witness_FbByteHoldsEightColumns : (loaded 72 0 fun _ _ => 0).params.legal ∧ (loaded 72 0 fun _ _ => 0).busy = false ∧
    5 < 6 ∧ 8 < (loaded 72 0 fun _ _ => 0).params.fbMaxCols / 8 := by decide

theorem witness_LastWindowIsTheWireFormat : 5 < 6 ∧ 7 < 8 ∧ 0 < 8 := by decide

theorem witness_MemoryIsCanonical : Memory.wf [(0x10000, 1), (0x10002, 2)] ∧
    Memory.set [(0x10000, 1), (0x10002, 2)] 0x10001 3 = [(0x10000, 1), (0x10001, 3), (0x10002, 2)] ∧
    Memory.set [(0x10000, 1), (0x10002, 2)] 0x10002 3 = [(0x10000, 1), (0x10002, 3)] := by decide

theorem witness_StepKeepsTheInvariant :
    Inv (onTurns (List.replicate 2 .engine) { running 0 with params := smallParams 64 2 }) ∧
    ends (step (onTurns (List.replicate 2 .engine) { running 0 with params := smallParams 64 2 })) (fun _ => true) = true :=
  ⟨inv_running, by decide⟩

/-- A step that enters an error from a running command. -/
theorem witness_ErrorImpliesIdle :
    let s := onTurns [.sink false] { running 1 with q := [.delay .rs 1] }
    (s.err = true → s.busy = false) ∧ ends (step s) (fun t => t.err && !t.busy) = true := by decide

theorem witness_OnlyBusErrorsStopTheMachine : faults (step (onAccess (.read 0x02C 4) State.reset)) = true ∧
    faults (step (onAccess (.write 0x101 2 0) State.reset)) = true := by decide

theorem witness_FirstErrorWins :
    let s := onTurns [.sink false] { failed with q := [.delay .rs 1], errCode := .illegalCommand, errInfo := 7 }
    s.err = true ∧ nextTurn s ≠ .reset ∧ ends (step s) (fun _ => true) = true := by decide

/-- BUSY is set by an accepted ANIMATE, and cleared by the last engine step, by a sink failure and by reset. -/
theorem witness_BusyChangesOnlySo :
    ends (step (onAccess (cmdOp (.animate false false)) State.reset)) (fun t => t.busy) = true ∧
    ends (step (onTurns [.engine] (running 1))) (fun t => !t.busy) = true ∧
    ends (step (onTurns [.sink false] { running 1 with q := [.delay .rs 1] })) (fun t => !t.busy) = true ∧
    ends (step (onTurns [.reset] (running 1))) (fun t => !t.busy) = true := by decide

theorem witness_LastValidChangesOnlySo :
    ends (step (onTurns [.engine] (running 1))) (fun t => t.lastValid) = true ∧
    ends (step (onAccess (cmdOp .lastSet) State.reset)) (fun t => t.lastValid) = true ∧
    ends (step (onAccess (cmdOp .lastClear) { State.reset with lastValid := true })) (fun t => !t.lastValid) = true ∧
    ends (step (onTurns [.reset] { State.reset with lastValid := true })) (fun t => !t.lastValid) = true := by decide

theorem witness_LastBufChangesOnlySo :
    ends (step (onTurns [.engine] (running 1))) (fun t => t.lastBuf != (running 1).lastBuf) = true ∧
    ends (step (onAccess (cmdOp .lastBlank) (withLast 64))) (fun t => t.lastBuf != (withLast 64).lastBuf) = true ∧
    ends (step (onAccess (.write 0x12F 1 1) State.reset)) (fun t => t.lastBuf != State.reset.lastBuf) = true ∧
    ends (step (onTurns [.reset] (withLast 64))) (fun t => t.lastBuf != (withLast 64).lastBuf) = true := by decide

theorem witness_FbChangesOnlyByTheHost :
    nextTurn (onAccess (.write 0x10BFC 4 1) State.reset) ≠ .reset ∧
    ends (step (onAccess (.write 0x10BFC 4 1) State.reset)) (fun t => t.fb != State.reset.fb) = true ∧
    ends (step (onAccess (.write 0x10BFC 4 1) (running 1))) (fun t => t.fb == (running 1).fb && t.bwe) = true := by decide

theorem witness_RunningCommandIsIsolatedFromTheHost :
    (onAccess (.write 0x100 4 1) (running 1)).busy = true ∧ nextTurn (onAccess (.write 0x100 4 1) (running 1)) = .host ∧
    ends (step (onAccess (.write 0x100 4 1) (running 1))) (fun t => t.bwe) = true := by decide

/-- An enabled engine turn, an acceptance, a reset, and a turn that leaves ITEMS. -/
theorem witness_ItemsCountsEngineSteps :
    (nextTurn (onTurns [.engine] (running 0)) = .engine ∧ (running 0).busy = true ∧
      (running 0).pos < (running 0).cmdItems.length ∧ (running 0).q.length < (running 0).params.outDepth ∧
      ends (step (onTurns [.engine] (running 0))) (fun t => t.items == 1) = true) ∧
    (let s : State := { State.reset with items := 9 }
     s.busy = false ∧ ends (step (onAccess (cmdOp (.animate false false)) s)) (fun t => t.busy && t.items == 0) = true ∧
     nextTurn (onTurns [.reset] s) = .reset ∧ ends (step (onTurns [.reset] s)) (fun t => t.items == 0) = true ∧
     nextTurn (onTurns [.engine] s) ≠ .reset ∧
     ends (step (onTurns [.engine] s)) (fun t => !t.busy && t.items == 9) = true) := by decide

theorem witness_OutputOrderIsKept :
    goesOn (nextTurn (onTurns [.engine] (running 1))) = true ∧ ends (step (onTurns [.engine] (running 1))) (fun _ => true) = true ∧
    goesOn (nextTurn (onTurns [.sink true] { running 1 with q := [.delay .rs 1] })) = true := by decide

end Sys2Proof.Machine.Tests
end

/-! ### What a decoded word is, and the state a host access acts in -/

section
namespace Sys2Proof

/-- R64: the word its fields give back, from the number its opcode field holds. -/
theorem cmd32_of_opField {w : Word} {op : BitVec 4} (ho : opField w = op.toNat) (hr : reservedClear w = true) :
    cmd32 op (tFlag w) (hFlag w) = w := by
  rw [← (BitVec.eq_of_toNat_eq ho : w.extractLsb' 0 4 = op)]
  exact cmd32_of_fields w hr

/-- R66: the same for a command other than ANIMATE, whose flags are 0. -/
theorem cmd32_of_decodePlain {w : Word} {i j : Instr} (op : BitVec 4) (ho : opField w = op.toNat)
    (h : decodePlain w i = .ok j) : j = i ∧ cmd32 op false false = w := by
  obtain ⟨rfl, hr, ht, hh⟩ := (decodePlain_ok_iff w i j).1 h
  exact ⟨rfl, by simpa [ht, hh] using cmd32_of_opField ho hr⟩

/-- R65, R66: a word that decodes to a command is that command's word. -/
theorem encode_of_decode {w : Word} {i : Instr} (h : decode w = .ok i) : encode i = w := by
  unfold decode at h
  split at h
  case h_1 ho => obtain ⟨rfl, e⟩ := cmd32_of_decodePlain 0 ho h; exact e
  case h_2 ho => obtain ⟨rfl, e⟩ := cmd32_of_decodePlain 1 ho h; exact e
  case h_3 ho =>
    split at h
    · cases h
    · rename_i hr
      cases h
      exact cmd32_of_opField ho (by simpa using hr)
  case h_4 ho => obtain ⟨rfl, e⟩ := cmd32_of_decodePlain 3 ho h; exact e
  case h_5 ho => obtain ⟨rfl, e⟩ := cmd32_of_decodePlain 4 ho h; exact e
  case h_6 ho => obtain ⟨rfl, e⟩ := cmd32_of_decodePlain 5 ho h; exact e
  case h_7 => cases h

end Sys2Proof

namespace Sys2Proof.Machine

open Sys2Proof

section
variable (rest : List HostOp) (resp : BusResp) (s : State)

@[simp] theorem afterHost_busy : (afterHost rest resp s).busy = s.busy := passTurn_busy s
@[simp] theorem afterHost_err : (afterHost rest resp s).err = s.err := passTurn_err s
@[simp] theorem afterHost_lastValid : (afterHost rest resp s).lastValid = s.lastValid := passTurn_lastValid s
@[simp] theorem afterHost_errCode : (afterHost rest resp s).errCode = s.errCode := passTurn_errCode s
@[simp] theorem afterHost_width : (afterHost rest resp s).width = s.width := passTurn_width s
@[simp] theorem afterHost_rsDelay : (afterHost rest resp s).rsDelay = s.rsDelay := passTurn_rsDelay s
@[simp] theorem afterHost_csDelay : (afterHost rest resp s).csDelay = s.csDelay := passTurn_csDelay s
@[simp] theorem afterHost_initDelay : (afterHost rest resp s).initDelay = s.initDelay := passTurn_initDelay s
@[simp] theorem afterHost_holdDelay : (afterHost rest resp s).holdDelay = s.holdDelay := passTurn_holdDelay s
@[simp] theorem afterHost_items : (afterHost rest resp s).items = s.items := passTurn_items s
@[simp] theorem afterHost_lastBuf : (afterHost rest resp s).lastBuf = s.lastBuf := passTurn_lastBuf s
@[simp] theorem afterHost_fb : (afterHost rest resp s).fb = s.fb := passTurn_fb s
@[simp] theorem afterHost_q : (afterHost rest resp s).q = s.q := passTurn_q s
@[simp] theorem afterHost_ecmd : (afterHost rest resp s).ecmd = s.ecmd := passTurn_ecmd s
@[simp] theorem afterHost_cmdItems : (afterHost rest resp s).cmdItems = s.cmdItems := passTurn_cmdItems s
@[simp] theorem afterHost_pos : (afterHost rest resp s).pos = s.pos := passTurn_pos s
@[simp] theorem afterHost_pendingLast : (afterHost rest resp s).pendingLast = s.pendingLast := passTurn_pendingLast s
@[simp] theorem afterHost_params : (afterHost rest resp s).params = s.params := passTurn_params s
@[simp] theorem afterHost_fbDraw : (afterHost rest resp s).fbDraw = s.fbDraw := passTurn_fbDraw s

end

/-! ### Stores and completion, field by field -/

section
variable (n : Nat) (v : Word) (s : State) (tg : Target)

@[simp] theorem storeTarget_busy : (storeTarget n v s tg).busy = s.busy := by unfold storeTarget; split <;> rfl
@[simp] theorem storeTarget_lastValid : (storeTarget n v s tg).lastValid = s.lastValid := by unfold storeTarget; split <;> rfl
@[simp] theorem storeTarget_errCode : (storeTarget n v s tg).errCode = s.errCode := by unfold storeTarget; split <;> rfl
@[simp] theorem storeTarget_items : (storeTarget n v s tg).items = s.items := by unfold storeTarget; split <;> rfl
@[simp] theorem storeTarget_q : (storeTarget n v s tg).q = s.q := by unfold storeTarget; split <;> rfl
@[simp] theorem storeTarget_ecmd : (storeTarget n v s tg).ecmd = s.ecmd := by unfold storeTarget; split <;> rfl
@[simp] theorem storeTarget_cmdItems : (storeTarget n v s tg).cmdItems = s.cmdItems := by unfold storeTarget; split <;> rfl
@[simp] theorem storeTarget_pos : (storeTarget n v s tg).pos = s.pos := by unfold storeTarget; split <;> rfl
@[simp] theorem storeTarget_params : (storeTarget n v s tg).params = s.params := by unfold storeTarget; split <;> rfl
@[simp] theorem storeTarget_fbDraw : (storeTarget n v s tg).fbDraw = s.fbDraw := by unfold storeTarget; split <;> rfl

/-- R19: only a store into STATUS writes ERR. -/
@[simp] theorem storeTarget_err (h : tg ≠ .reg .status) : (storeTarget n v s tg).err = s.err := by
  unfold storeTarget; split <;> simp_all

/-- R47: only a store into the LAST window writes LASTBUF. -/
@[simp] theorem storeTarget_lastBuf (h : ∀ j, tg ≠ .last j) : (storeTarget n v s tg).lastBuf = s.lastBuf := by
  unfold storeTarget; split <;> simp_all

/-- R48: only a store into the FB window writes FB. -/
@[simp] theorem storeTarget_fb (h : ∀ a, tg ≠ .fb a) : (storeTarget n v s tg).fb = s.fb := by
  unfold storeTarget; split <;> simp_all

/-- R55: what a running command lets the host store is nothing, or the acknowledgement of an error. -/
theorem storeTarget_of_not_refused (h : refusedWhileBusy tg = false) :
    storeTarget n v s tg = s ∨ storeTarget n v s tg = acknowledge v s := by
  cases tg with
  | reg r => cases r <;> simp [storeTarget, refusedWhileBusy] at h ⊢
  | last j => cases h
  | fb a => cases h

end

/-! R42: the fields a completion writes. -/

@[simp] theorem completeIfLast_busy (s : State) :
    (completeIfLast s).busy = if s.pos = s.cmdItems.length then false else s.busy := by
  unfold completeIfLast; split <;> simp
@[simp] theorem completeIfLast_ecmd (s : State) :
    (completeIfLast s).ecmd = if s.pos = s.cmdItems.length then .none else s.ecmd := by
  unfold completeIfLast; split <;> simp
@[simp] theorem completeIfLast_lastValid (s : State) :
    (completeIfLast s).lastValid = if s.pos = s.cmdItems.length ∧ s.ecmd = .ani then true else s.lastValid := by
  unfold completeIfLast; split <;> simp [*]
@[simp] theorem completeIfLast_lastBuf (s : State) :
    (completeIfLast s).lastBuf = if s.pos = s.cmdItems.length ∧ s.ecmd = .ani then s.pendingLast else s.lastBuf := by
  unfold completeIfLast; split <;> simp [*]

/-- R41: a state with an item at `pos` is one whose list goes on with it. -/
theorem drop_pos_eq_cons {s : State} {it : Item} (h : s.cmdItems[s.pos]? = some it) :
    s.cmdItems.drop s.pos = it :: s.cmdItems.drop (s.pos + 1) := by
  obtain ⟨hp, rfl⟩ := List.getElem?_eq_some_iff.1 h
  exact List.drop_eq_getElem_cons hp

end Sys2Proof.Machine
end

/-! ### Everything a step can do, down to the update it makes -/

section
namespace Sys2Proof.Machine

open Sys2Proof

/-- R69: the host's next access writes `w` to CMD, on an idle block with no error. -/
structure Issues (s : State) (w : Word) (rest : List HostOp) : Prop where
  turn : nextTurn s = .host
  prog : s.hostProg = .write 0x008 4 w :: rest
  idle : s.busy = false
  noError : s.err = false

/-- R5, R57: the updates one step can make, each with the condition it is made under. `Effect s t` is what
`step s = .next t` says, with the agent, the access and the command taken apart (`effect_of_step`). -/
inductive Effect (s : State) : State → Prop
  /-- A host turn that only observes: no access left, a read, WAIT, or a command discarded under ERR = 1. -/
  | observed (rest : List HostOp) (resp : BusResp) (hn : nextTurn s = .host) : Effect s (afterHost rest resp s)
  | refused (rest : List HostOp) (hn : nextTurn s = .host) (hb : s.busy = true) :
      Effect s (setBwe (afterHost rest .done s))
  | stored (off n : Nat) (v : Word) (rest : List HostOp) (tg : Target) (hn : nextTurn s = .host)
      (hp : s.hostProg = .write off n v :: rest) (ht : busTarget s.params off n = some tg)
      (hr : s.busy = false ∨ refusedWhileBusy tg = false) : Effect s (storeTarget n v (afterHost rest .done s) tg)
  | rejected (w : Word) (rest : List HostOp) (code : ErrCode) (info : Word) (h : Issues s w rest)
      (hc : code = .illegalCommand ∨ code = .invalidGeometry) :
      Effect s (errorEntry code info (afterHost rest .done s))
  | encodeAccepted (rest : List HostOp) (h : Issues s (encode .encode) rest) :
      Effect s (accept .enc (encodeItems (afterHost rest .done s)) (afterHost rest .done s))
  | animateAccepted (a b : Bool) (rest : List HostOp) (h : Issues s (encode (.animate a b)) rest) :
      Effect s (acceptAnimate a b (afterHost rest .done s))
  | lastCleared (rest : List HostOp) (h : Issues s (encode .lastClear) rest) :
      Effect s { afterHost rest .done s with lastValid := false }
  | lastSet (rest : List HostOp) (h : Issues s (encode .lastSet) rest) :
      Effect s { afterHost rest .done s with lastValid := true }
  | lastBlanked (rest : List HostOp) (h : Issues s (encode .lastBlank) rest) :
      Effect s { afterHost rest .done s with lastBuf := blankFrame, lastValid := true }
  | engineStalled (hn : nextTurn s = .engine) (he : engineEnabled s = false) : Effect s (passTurn s)
  | enqueued (it : Item) (hn : nextTurn s = .engine) (hb : s.busy = true) (hi : s.cmdItems[s.pos]? = some it)
      (hp : s.pos < s.cmdItems.length) (hq : s.q.length < s.params.outDepth) :
      Effect s (completeIfLast (enqueue it (passTurn s)))
  | sinkStarved (ok : Bool) (hn : nextTurn s = .sink ok) (hq : s.q = []) : Effect s (passTurn s)
  | taken (it : Item) (rest : List Item) (hn : nextTurn s = .sink true) (hq : s.q = it :: rest) :
      Effect s (takeHead it true rest (passTurn s))
  | sinkFailed (it : Item) (rest : List Item) (hn : nextTurn s = .sink false) (hq : s.q = it :: rest) :
      Effect s (sinkFailure (takeHead it false rest (passTurn s)))
  | reset (hn : nextTurn s = .reset) : Effect s (resetTurn (passTurn s))

/-- An accepted command's effect (R69). -/
theorem effect_of_exec {s t : State} {i : Instr} {rest : List HostOp} (h : Issues s (encode i) rest)
    (ht : exec i (afterHost rest .done s) = .next t) : Effect s t := by
  rcases exec_cases i (afterHost rest .done s) with ⟨-, e⟩ | ⟨rfl, -, e⟩ | ⟨a, b, rfl, -, e⟩ | ⟨rfl, e⟩ |
    ⟨rfl, e⟩ | ⟨rfl, e⟩ | ⟨rfl, e⟩ <;> cases e.symm.trans ht
  · exact .rejected _ rest _ _ h (.inr rfl)
  · exact .encodeAccepted rest h
  · exact .animateAccepted a b rest h
  · exact .observed rest .done h.turn
  · exact .lastCleared rest h
  · exact .lastSet rest h
  · exact .lastBlanked rest h

/-- A host write's effect (R49, R55, R69). -/
theorem effect_of_memWrite {s t : State} {off n : Nat} {v : Word} {rest : List HostOp} (hn : nextTurn s = .host)
    (hp : s.hostProg = .write off n v :: rest) (h : memWrite off n v (afterHost rest .done s) = .next t) :
    Effect s t := by
  have issues : off = 0x008 → n = 4 → (afterHost rest .done s).busy = false → (afterHost rest .done s).err = false →
      Issues s v rest := by
    rintro rfl rfl hb he
    exact ⟨hn, hp, by simpa using hb, by simpa using he⟩
  rcases memWrite_cases h with ⟨tg, -, hb, -, rfl⟩ | ⟨tg, ht, -, hr, rfl⟩ | ⟨-, -, -, -, rfl⟩ |
    ⟨ho, h4, hb, he, -, rfl⟩ | ⟨ho, h4, hb, he, i, hd, hx⟩
  · exact .refused rest hn (by simpa using hb)
  · exact .stored off n v rest tg hn hp (by simpa using ht) (by simpa using hr)
  · exact .observed rest .done hn
  · exact .rejected v rest _ _ (issues ho h4 hb he) (.inl rfl)
  · exact effect_of_exec (encode_of_decode hd ▸ issues ho h4 hb he) hx

/-- Every step that answers a next state has one of the effects. -/
theorem effect_of_step {s t : State} (h : step s = .next t) : Effect s t := by
  rcases step_cases h with ⟨hn, h⟩ | ⟨hn, rfl⟩ | ⟨ok, hn, rfl⟩ | ⟨hn, rfl⟩
  · rcases host_cases h with ⟨-, rfl⟩ | ⟨off, n, rest, v, -, -, rfl⟩ | ⟨off, n, v, rest, hp, h⟩ | ⟨rest, -, rfl⟩
    · exact .observed (passTurn s).hostProg (passTurn s).busResp hn
    · exact .observed rest (.data v) hn
    · exact effect_of_memWrite hn (by simpa using hp) h
    · unfold hostWait
      split
      · exact .observed (passTurn s).hostProg _ hn
      · exact .observed rest _ hn
  · rcases engine_cases (passTurn s) with ⟨it, hb, hi, hq, hp, e⟩ | ⟨he, e⟩ <;> rw [e]
    · exact .enqueued it hn (by simpa using hb) (by simpa using hi) (by simpa using hp) (by simpa using hq)
    · exact .engineStalled hn (by simpa [engineEnabled] using he)
  · rcases sink_cases ok (passTurn s) with ⟨hq, e⟩ | ⟨it, rest, hq, rfl, e⟩ | ⟨it, rest, hq, rfl, e⟩ <;>
      rw [e] <;> rw [passTurn_q] at hq
    · exact .sinkStarved ok hn hq
    · exact .taken it rest hn hq
    · exact .sinkFailed it rest hn hq
  · exact .reset hn

end Sys2Proof.Machine
end

/-! ### The invariant, update by update -/

section
namespace Sys2Proof.Machine

open Sys2Proof

/-- The invariant reads ten fields: an update that leaves them keeps it. -/
theorem Inv.of_same {s t : State} (h : Inv s) (hparams : t.params = s.params := by simp)
    (hfb : t.fb = s.fb := by simp) (hq : t.q = s.q := by simp) (hbusy : t.busy = s.busy := by simp)
    (hecmd : t.ecmd = s.ecmd := by simp) (herr : t.err = s.err := by simp)
    (hlist : t.cmdItems = s.cmdItems := by simp) (hpos : t.pos = s.pos := by simp)
    (hitems : t.items = s.items := by simp) (hcode : t.errCode = s.errCode := by simp) : Inv t where
  paramsLegal := hparams ▸ h.paramsLegal
  fbCanonical := hfb ▸ h.fbCanonical
  fbInWindow := by rw [hfb, hparams]; exact h.fbInWindow
  queueBounded := by rw [hq, hparams]; exact h.queueBounded
  busyIffRunning := by rw [hbusy, hecmd]; exact h.busyIffRunning
  errImpliesIdle := by rw [hbusy, herr]; exact h.errImpliesIdle
  runningHasItem := by rw [hbusy, hpos, hlist]; exact h.runningHasItem
  itemsCount := by rw [hbusy, hitems, hpos, hlist]; exact h.itemsCount
  animateFrames := by rw [hecmd, hlist]; exact h.animateFrames
  codeProduced := hcode ▸ h.codeProduced
  errHasCode := by rw [herr, hcode]; exact h.errHasCode

variable {s : State}

/-- R111: an error entry of an idle block, with a code that R103 lets a step record. -/
theorem Inv.after_errorEntry (h : Inv s) (hb : s.busy = false) {code : ErrCode} (info : Word)
    (hc : code = .illegalCommand ∨ code = .invalidGeometry) : Inv (errorEntry code info s) where
  paramsLegal := by simpa using h.paramsLegal
  fbCanonical := by simpa using h.fbCanonical
  fbInWindow := by simpa using h.fbInWindow
  queueBounded := by simpa using h.queueBounded
  busyIffRunning := by simpa using h.busyIffRunning
  errImpliesIdle := by simp [hb]
  runningHasItem := by simp [hb]
  itemsCount := by simp [hb]
  animateFrames := by simpa using h.animateFrames
  codeProduced := by
    rw [errorEntry_errCode]
    split
    · exact h.codeProduced
    · rcases hc with rfl | rfl <;> simp
  errHasCode := by
    rw [errorEntry_errCode]
    split
    case isTrue he => exact fun _ => h.errHasCode he
    case isFalse => rcases hc with rfl | rfl <;> simp

/-- R115: clearing ERR asks nothing of the code that stays. -/
theorem Inv.after_acknowledge (h : Inv s) (w : Word) : Inv (acknowledge w s) :=
  { h with
    errImpliesIdle := fun he => h.errImpliesIdle (Bool.and_eq_true_iff.1 he).1
    errHasCode := fun he => h.errHasCode (Bool.and_eq_true_iff.1 he).1 }

/-- R48: bytes stored inside the FB window keep FB canonical and inside it. -/
theorem Inv.after_storeFb (h : Inv s) {off n : Nat} (v : Word) (ha : fbAccess s.params off n) :
    Inv (storeTarget n v s (.fb off)) :=
  { h with
    fbCanonical := Memory.setBytes_wf _ h.fbCanonical off
    fbInWindow := by
      intro c hc
      obtain ⟨hlo, hhi, -, -⟩ := ha
      rcases Memory.mem_setBytes hc with hw | hm
      · rw [splitBytes_length] at hw
        simp only [storeTarget, fbEnd_eq, fbBase]
        omega
      · exact h.fbInWindow c hm }

/-- Every store the map admits keeps the invariant. -/
theorem Inv.after_storeTarget (h : Inv s) {off n : Nat} (v : Word) {tg : Target}
    (ht : busTarget s.params off n = some tg) : Inv (storeTarget n v s tg) := by
  cases tg with
  | reg r =>
    cases r with
    | status => exact h.after_acknowledge v
    | id | param | cmd | errinfo | items => exact h
    | width | rsDelay | csDelay | initDelay | holdDelay => exact h.of_same
  | last j => exact h.of_same
  | fb a =>
    obtain ⟨ha, rfl⟩ := (busTarget_fb_iff _ _ _ _).1 ht
    exact h.after_storeFb v ha

/-- R79, R90: the acceptance of a list that is not empty, is shorter than ITEMS can count, and has device-sized frames
if it is an ANIMATE's. -/
theorem Inv.after_accept (h : Inv s) (he : s.err = false) {c : EngineCmd} {l : List Item} (hc : c ≠ .none)
    (hpos : 0 < l.length) (hlen : l.length < 2 ^ 32) (hani : c = .ani → ∀ it ∈ l, it.deviceSized = true) :
    Inv (accept c l s) :=
  { h with
    busyIffRunning := by simpa using hc
    errImpliesIdle := by simp [he]
    runningHasItem := by simpa using hpos
    itemsCount := by simpa using hlen
    animateFrames := hani }

theorem Inv.after_acceptEncode (h : Inv s) (he : s.err = false) : Inv (accept .enc (encodeItems s) s) :=
  h.after_accept he (by simp) (by simp [encodeItems]) (by simp [encodeItems]) (by simp)

theorem Inv.after_acceptAnimate (h : Inv s) (he : s.err = false) (a b : Bool) : Inv (acceptAnimate a b s) := by
  obtain ⟨hpos, hlen⟩ := animateItems_length_bounds s a b
  have hn := windowCount_le s a
  have hacc : Inv (accept .ani (animateItems s a b) s) :=
    h.after_accept he (by simp) hpos (by omega) fun _ => animateItems_deviceSized s a b
  exact hacc.of_same

/-- R41, R42: the engine's step keeps `ITEMS = p`, and clears BUSY and ECMD together on the last item. -/
theorem Inv.after_enqueue (h : Inv s) {it : Item} (hb : s.busy = true) (hp : s.pos < s.cmdItems.length)
    (hq : s.q.length < s.params.outDepth) : Inv (completeIfLast (enqueue it s)) where
  paramsLegal := by simpa using h.paramsLegal
  fbCanonical := by simpa using h.fbCanonical
  fbInWindow := by simpa using h.fbInWindow
  queueBounded := by simpa using Nat.succ_le_of_lt hq
  busyIffRunning := by
    by_cases hlast : s.pos + 1 = s.cmdItems.length
    · simp [hlast]
    · simpa [hlast] using h.busyIffRunning
  errImpliesIdle he := by simp [h.errImpliesIdle (by simpa using he)]
  runningHasItem := by
    by_cases hlast : s.pos + 1 = s.cmdItems.length
    · simp [hlast]
    · have hnext : s.pos + 1 < s.cmdItems.length := by omega
      simp [hnext]
  itemsCount _ := by
    obtain ⟨hitems, hlen⟩ := h.itemsCount hb
    refine ⟨?_, by simpa using hlen⟩
    simp only [completeIfLast_items, enqueue_items, completeIfLast_pos, enqueue_pos, BitVec.toNat_add, hitems]
    exact Nat.mod_eq_of_lt (show s.pos + 1 < 2 ^ 32 by omega)
  animateFrames := by
    by_cases hlast : s.pos + 1 = s.cmdItems.length
    · simp [hlast]
    · simpa [hlast] using h.animateFrames
  codeProduced := by simpa using h.codeProduced
  errHasCode := by simpa using h.errHasCode

/-- R43: taking the head makes Q shorter. -/
theorem Inv.after_takeHead (h : Inv s) {it : Item} {rest : List Item} (ok : Bool) (hq : s.q = it :: rest) :
    Inv (takeHead it ok rest s) :=
  { h with
    queueBounded := by
      have hlen := h.queueBounded
      rw [hq, List.length_cons] at hlen
      exact Nat.le_of_succ_le hlen }

/-- R37, R113: after a sink failure no command runs. -/
theorem Inv.sinkFailure_ecmd_none (h : Inv s) : (sinkFailure s).ecmd = .none := by
  rw [sinkFailure_ecmd]
  split
  case isTrue => rfl
  case isFalse hb => simpa [hb] using h.busyIffRunning

/-- R113: a sink failure leaves an idle block with an empty Q and a code. -/
theorem Inv.after_sinkFailure (h : Inv s) : Inv (sinkFailure s) where
  paramsLegal := by simpa using h.paramsLegal
  fbCanonical := by simpa using h.fbCanonical
  fbInWindow := by simpa using h.fbInWindow
  queueBounded := by simp
  busyIffRunning := by rw [h.sinkFailure_ecmd_none]; simp
  errImpliesIdle := by simp
  runningHasItem := by simp
  itemsCount := by simp
  animateFrames := by rw [h.sinkFailure_ecmd_none]; simp
  codeProduced := by
    rw [sinkFailure_errCode]
    split
    · exact h.codeProduced
    · simp
  errHasCode := by
    rw [sinkFailure_errCode]
    split
    case isTrue he => exact fun _ => h.errHasCode he
    case isFalse => simp

/-- R124: what `Inv` says of the block holds at its reset values, whatever the parameters. -/
theorem Inv.after_resetTurn (h : Inv s) : Inv (resetTurn s) where
  paramsLegal := h.paramsLegal
  fbCanonical := reset_fb_wf
  fbInWindow := by simp
  queueBounded := by simp
  busyIffRunning := by simp
  errImpliesIdle := by simp
  runningHasItem := by simp
  itemsCount := by simp
  animateFrames := by simp
  codeProduced := by simp
  errHasCode := by simp

/-- Every effect of a step keeps the invariant. -/
theorem Inv.of_effect {t : State} (h : Inv s) (e : Effect s t) : Inv t := by
  have hpass : Inv (passTurn s) := h.of_same
  have hhost : ∀ rest resp, Inv (afterHost rest resp s) := fun _ _ => h.of_same
  cases e with
  | observed rest resp => exact hhost rest resp
  | refused rest => exact (hhost rest .done).of_same
  | stored off n v rest tg _ _ ht => exact (hhost rest .done).after_storeTarget v (by simpa using ht)
  | rejected w rest code info hi hc => exact (hhost rest .done).after_errorEntry (by simpa using hi.idle) info hc
  | encodeAccepted rest hi => exact (hhost rest .done).after_acceptEncode (by simpa using hi.noError)
  | animateAccepted a b rest hi => exact (hhost rest .done).after_acceptAnimate (by simpa using hi.noError) a b
  | lastCleared rest | lastSet rest | lastBlanked rest => exact (hhost rest .done).of_same
  | engineStalled | sinkStarved => exact hpass
  | enqueued it _ hb hi hp hq => exact hpass.after_enqueue (by simpa using hb) (by simpa using hp) (by simpa using hq)
  | taken it rest _ hq => exact hpass.after_takeHead true (by simpa using hq)
  | sinkFailed it rest _ hq => exact (hpass.after_takeHead false (by simpa using hq)).after_sinkFailure
  | reset => exact hpass.after_resetTurn

/-- Settles O50: each effect of a step keeps the invariant (`Inv.of_effect`). -/
theorem stepKeepsTheInvariant : Obligations.StepKeepsTheInvariant := by
  unfold Obligations.StepKeepsTheInvariant
  intro s t h hstep
  exact h.of_effect (effect_of_step hstep)

/-- Settles O49: the block stands at its reset values, with legal default parameters. -/
theorem resetMeetsTheInvariant : Obligations.ResetMeetsTheInvariant where
  paramsLegal := by decide
  fbCanonical := reset_fb_wf
  fbInWindow := by simp [State.reset]
  queueBounded := by decide
  busyIffRunning := by decide
  errImpliesIdle := by decide
  runningHasItem := by decide
  itemsCount := by decide
  animateFrames := by decide
  codeProduced := by decide
  errHasCode := by decide

end Sys2Proof.Machine
end

/-! ### What changes BUSY, LAST_VALID, LASTBUF, FB and ITEMS -/

section
namespace Sys2Proof.Machine

open Sys2Proof

/-- R55: a store that is not refused while a command runs reaches neither window. -/
theorem idle_of_store_window {s : State} {tg : Target} (hr : s.busy = false ∨ refusedWhileBusy tg = false)
    (hw : refusedWhileBusy tg = true) : s.busy = false := by simpa [hw] using hr

/-- Settles O54, by the effects that write BUSY: the two acceptances set it, the last engine step, a sink failure and a
reset clear it. -/
theorem busyChangesOnlySo : Obligations.BusyChangesOnlySo := by
  unfold Obligations.BusyChangesOnlySo
  intro s t hstep
  constructor
  · intro hs ht
    cases effect_of_step hstep with
    | encodeAccepted rest h => exact ⟨h.turn, h.noError, by simp, by simp, _, rest, h.prog, .inl rfl⟩
    | animateAccepted a b rest h => exact ⟨h.turn, h.noError, by simp, by simp, _, rest, h.prog, .inr ⟨a, b, rfl⟩⟩
    | enqueued it _ hb => simp [hs] at hb
    | observed | refused | stored | rejected | lastCleared | lastSet | lastBlanked | engineStalled | sinkStarved
    | taken | sinkFailed | reset => simp [hs] at ht
  · intro hs ht
    cases effect_of_step hstep with
    | enqueued it hn =>
      have hlast : s.pos + 1 = s.cmdItems.length := by
        by_contra hne
        simp [hne, hs] at ht
      exact .inl ⟨hn, hlast, by simpa using hlast⟩
    | sinkFailed it rest hn => exact .inr (.inl ⟨hn, by simp⟩)
    | reset hn => exact .inr (.inr hn)
    | observed | refused | stored | rejected | encodeAccepted | animateAccepted | lastCleared | lastSet | lastBlanked
    | engineStalled | sinkStarved | taken => simp [hs] at ht

/-- Settles O55, by the effects that write LAST_VALID. -/
theorem lastValidChangesOnlySo : Obligations.LastValidChangesOnlySo := by
  unfold Obligations.LastValidChangesOnlySo
  intro s t hstep hne
  cases effect_of_step hstep with
  | lastCleared rest h => exact .inr (.inr (.inl ⟨rfl, h.turn, rest, h.prog⟩))
  | lastSet rest h => exact .inr (.inl ⟨rfl, h.turn, rest, .inl h.prog⟩)
  | lastBlanked rest h => exact .inr (.inl ⟨rfl, h.turn, rest, .inr h.prog⟩)
  | enqueued it hn =>
    have hdone : s.pos + 1 = s.cmdItems.length ∧ s.ecmd = .ani := by
      by_contra hnot
      simp [hnot] at hne
    exact .inl ⟨by simp [hdone], hn, hdone.2, hdone.1, by simp [hdone]⟩
  | reset hn => exact .inr (.inr (.inr ⟨rfl, hn⟩))
  | observed | refused | stored | rejected | encodeAccepted | animateAccepted | engineStalled | sinkStarved | taken
  | sinkFailed => simp at hne

/-- Settles O56, by the effects that write LASTBUF. -/
theorem lastBufChangesOnlySo : Obligations.LastBufChangesOnlySo := by
  unfold Obligations.LastBufChangesOnlySo
  intro s t hstep hne
  cases effect_of_step hstep with
  | stored off n v rest tg hn hp ht hr =>
    cases tg with
    | last j =>
      have hacc := ((busTarget_last_iff _ _ _ _).1 ht).1
      exact .inr (.inl ⟨hn, idle_of_store_window hr rfl, .inr ⟨off, n, v, rest, hp, hacc⟩⟩)
    | reg r | fb a => simp at hne
  | lastBlanked rest h => exact .inr (.inl ⟨h.turn, h.idle, .inl ⟨rest, h.prog⟩⟩)
  | enqueued it hn =>
    have hdone : s.pos + 1 = s.cmdItems.length ∧ s.ecmd = .ani := by
      by_contra hnot
      simp [hnot] at hne
    exact .inl ⟨hn, hdone.2, hdone.1, by simp [hdone], by simp [hdone]⟩
  | reset hn => exact .inr (.inr hn)
  | observed | refused | rejected | encodeAccepted | animateAccepted | lastCleared | lastSet | engineStalled
  | sinkStarved | taken | sinkFailed => simp at hne

/-- A byte of FB is what the written bytes and the draw of the unknown ones say. -/
theorem fbByte_congr {s t : State} (hfb : t.fb = s.fb) (hdraw : t.fbDraw = s.fbDraw) (a : Nat) :
    fbByte t a = fbByte s a := by simp [fbByte, hfb, hdraw]

/-- R48: a store into the FB window leaves the bytes outside the written ones. -/
theorem fbByte_storeTarget_of_outside {off n a : Nat} (v : Word) (s : State) (ha : ¬(off ≤ a ∧ a < off + n)) :
    fbByte (storeTarget n v s (.fb off)) a = fbByte s a := by
  simp [fbByte, storeTarget, Memory.get?_setBytes, ha]

/-- Settles O57: of the effects of a step, only a store and a reset write FB. -/
theorem fbChangesOnlyByTheHost : Obligations.FbChangesOnlyByTheHost := by
  unfold Obligations.FbChangesOnlyByTheHost
  intro s t hstep hreset
  cases effect_of_step hstep with
  | stored off n v rest tg hn hp ht hr =>
    cases tg with
    | fb b =>
      obtain ⟨hacc, rfl⟩ := (busTarget_fb_iff _ _ _ _).1 ht
      refine .inr ⟨hn, idle_of_store_window hr rfl, b, n, v, rest, hp, hacc, fun a ha => ?_⟩
      exact (fbByte_storeTarget_of_outside v _ ha).trans (fbByte_congr (by simp) (by simp) a)
    | reg r | last j => exact .inl (fbByte_congr (by simp) (by simp))
  | reset hn => exact absurd hn hreset
  | observed | refused | rejected | encodeAccepted | animateAccepted | lastCleared | lastSet | lastBlanked
  | engineStalled | enqueued | sinkStarved | taken | sinkFailed => exact .inl (fbByte_congr (by simp) (by simp))

/-- R55, R59: while a command runs a host turn only observes, sets BWE, or acknowledges an error. -/
theorem hostEffect_while_busy {s t : State} (hb : s.busy = true) (hn : nextTurn s = .host) (e : Effect s t) :
    ∃ rest resp, t = afterHost rest resp s ∨ t = setBwe (afterHost rest resp s) ∨
      ∃ w, t = acknowledge w (afterHost rest resp s) := by
  cases e with
  | observed rest resp => exact ⟨rest, resp, .inl rfl⟩
  | refused rest => exact ⟨rest, .done, .inr (.inl rfl)⟩
  | stored off n v rest tg _ _ _ hr =>
    refine ⟨rest, .done, ?_⟩
    rcases storeTarget_of_not_refused n v (afterHost rest .done s) tg (by simpa [hb] using hr) with h | h
    · exact .inl h
    · exact .inr (.inr ⟨v, h⟩)
  | rejected w rest code info h | encodeAccepted rest h | animateAccepted a b rest h | lastCleared rest h
  | lastSet rest h | lastBlanked rest h => simp [h.idle] at hb
  | engineStalled h | enqueued it h | sinkStarved ok h | taken it rest h | sinkFailed it rest h | reset h =>
    simp [hn] at h

/-- Settles O58: BWE and ERR are all a host turn writes while a command runs. -/
theorem runningCommandIsIsolatedFromTheHost : Obligations.RunningCommandIsIsolatedFromTheHost := by
  unfold Obligations.RunningCommandIsIsolatedFromTheHost
  intro s t hb hn hstep
  obtain ⟨rest, resp, rfl | rfl | ⟨w, rfl⟩⟩ := hostEffect_while_busy hb hn (effect_of_step hstep) <;> simp [hb]

/-- R41: the engine's condition, as the statements write it. -/
theorem engineEnabled_iff (s : State) : engineEnabled s = true ↔
    s.busy = true ∧ s.pos < s.cmdItems.length ∧ s.q.length < s.params.outDepth := by
  simp [engineEnabled, and_assoc]

/-- R31, R41: what a step leaves in ITEMS: one more after an enabled engine turn, 0 after an acceptance or a reset, and
else what stood there. -/
theorem items_of_effect {s t : State} (e : Effect s t) :
    (nextTurn s = .engine ∧ engineEnabled s = true ∧ t.items = s.items + 1) ∨
    (nextTurn s = .host ∧ s.busy = false ∧ t.busy = true ∧ t.items = 0) ∨
    (nextTurn s = .reset ∧ t.items = 0) ∨
    (nextTurn s ≠ .reset ∧ ¬(nextTurn s = .engine ∧ engineEnabled s = true) ∧ ¬(s.busy = false ∧ t.busy = true) ∧
      t.items = s.items) := by
  cases e with
  | enqueued it hn hb _ hp hq => exact .inl ⟨hn, (engineEnabled_iff s).2 ⟨hb, hp, hq⟩, by simp⟩
  | encodeAccepted rest h => exact .inr (.inl ⟨h.turn, h.idle, by simp, by simp⟩)
  | animateAccepted a b rest h => exact .inr (.inl ⟨h.turn, h.idle, by simp, by simp⟩)
  | reset hn => exact .inr (.inr (.inl ⟨hn, by simp⟩))
  | engineStalled hn he => exact .inr (.inr (.inr (by simp [hn, he])))
  | observed rest resp hn | refused rest hn | stored off n v rest tg hn | sinkStarved ok hn | taken it rest hn
  | sinkFailed it rest hn => exact .inr (.inr (.inr (by simp [hn])))
  | rejected w rest code info h | lastCleared rest h | lastSet rest h | lastBlanked rest h =>
    exact .inr (.inr (.inr (by simp [h.turn])))

/-- Settles O59: the four cases of `items_of_effect` exclude each other. -/
theorem itemsCountsEngineSteps : Obligations.ItemsCountsEngineSteps := by
  unfold Obligations.ItemsCountsEngineSteps
  intro s t hstep
  rcases items_of_effect (effect_of_step hstep) with ⟨hn, he, hi⟩ | ⟨hn, hs, ht, hi⟩ | ⟨hn, hi⟩ |
    ⟨hr, hne, hacc, hi⟩
  · obtain ⟨hb, hp, hq⟩ := (engineEnabled_iff s).1 he
    simp [hn, hb, hp, hq, hi]
  · simp [hn, hs, ht, hi]
  · simp [hn, hi]
  · exact ⟨fun hn hb hp hq => absurd ⟨hn, (engineEnabled_iff s).2 ⟨hb, hp, hq⟩⟩ hne,
      fun hs ht => absurd ⟨hs, ht⟩ hacc, fun hn => absurd hn hr, fun _ _ _ => hi⟩

end Sys2Proof.Machine
end

/-! ### The order of the output -/

section
namespace Sys2Proof.Machine

open Sys2Proof

/-- R43, R58: the trace as it will stand when every item still to come has been accepted. -/
def acceptedTrace (s : State) : List (Item × Bool) :=
  s.delivered ++ (pendingItems s).map fun it => (it, true)

/-- `acceptedTrace` is `outputStream` with the answers that are given and to be given. -/
theorem acceptedTrace_map_fst (s : State) : (acceptedTrace s).map Prod.fst = outputStream s := by
  simp [acceptedTrace, outputStream, Function.comp_def]

/-- R136: when nothing is still to come the trace stands complete. -/
theorem acceptedTrace_of_idle {s : State} (hb : s.busy = false) (hq : s.q = []) : acceptedTrace s = s.delivered := by
  simp [acceptedTrace, pendingItems, hb, hq]

/-- The items to come do not depend on the turn's bookkeeping. -/
@[simp] theorem pendingItems_passTurn (s : State) : pendingItems (passTurn s) = pendingItems s := by
  simp [pendingItems]

/-- R41, R42: the item an engine step enqueues was the next one to come; after the last none is. -/
theorem pendingItems_enqueue {s : State} {it : Item} (hb : s.busy = true) (hi : s.cmdItems[s.pos]? = some it) :
    pendingItems (completeIfLast (enqueue it s)) = pendingItems s := by
  have hdrop := drop_pos_eq_cons hi
  by_cases hlast : s.pos + 1 = s.cmdItems.length
  · simp [pendingItems, hb, hlast, hdrop]
  · simp [pendingItems, hb, hlast, hdrop]

/-- R43, R58: an engine turn and an accepting sink turn keep the trace to be, and take their turn. -/
theorem acceptedTrace_of_goesOn {s t : State} (hgo : goesOn (nextTurn s) = true) (h : step s = .next t) :
    acceptedTrace t = acceptedTrace s ∧ t.turns = (passTurn s).turns := by
  cases effect_of_step h with
  | engineStalled | sinkStarved => simp [acceptedTrace]
  | enqueued it _ hb hi =>
    have hpend : pendingItems (completeIfLast (enqueue it (passTurn s))) = pendingItems (passTurn s) :=
      pendingItems_enqueue (by simpa using hb) (by simpa using hi)
    simp [acceptedTrace, hpend]
  | taken it rest _ hq => simp [acceptedTrace, pendingItems, hq]
  | observed rest resp hn | refused rest hn | stored off n v rest tg hn | sinkFailed it rest hn | reset hn =>
    simp [hn, goesOn] at hgo
  | rejected w rest code info hi | encodeAccepted rest hi | animateAccepted a b rest hi | lastCleared rest hi
  | lastSet rest hi | lastBlanked rest hi => simp [hi.turn, goesOn] at hgo

/-- Settles O60: the output is the trace to be, without its answers. -/
theorem outputOrderIsKept : Obligations.OutputOrderIsKept := by
  unfold Obligations.OutputOrderIsKept
  intro s t hgo hstep
  rw [← acceptedTrace_map_fst, (acceptedTrace_of_goesOn hgo hstep).1, acceptedTrace_map_fst]

/-- A run goes on from the state its first step answers. -/
theorem run_succ {k : Nat} {s t : State} (h : Host.Core.run Sys2Proof.core (k + 1) s = .next t) :
    ∃ u, step s = .next u ∧ Host.Core.run Sys2Proof.core k u = .next t := by
  simp only [Host.Core.run, show Sys2Proof.core.step = step from rfl] at h
  cases hs : step s with
  | next u => exact ⟨u, rfl, by simpa [hs] using h⟩
  | fault r => simp [hs] at h
  | refused r => simp [hs] at h

/-- The turn placed first is the next one, and taking it leaves the others. -/
theorem nextTurn_of_cons {s : State} {x : Turn} {ts : List Turn} (h : s.turns = x :: ts) :
    nextTurn s = x ∧ (passTurn s).turns = ts := by
  simp [nextTurn, passTurn, h]

/-- R58: a run of engine turns and accepting sink turns keeps the trace to be. -/
theorem acceptedTrace_run {ts rest : List Turn} {s t : State} (hturns : s.turns = ts ++ rest)
    (hgo : ∀ x ∈ ts, goesOn x = true) (hrun : Host.Core.run Sys2Proof.core ts.length s = .next t) :
    acceptedTrace t = acceptedTrace s := by
  induction ts generalizing s with
  | nil =>
    cases hrun
    rfl
  | cons x ts ih =>
    obtain ⟨u, hstep, hrun⟩ := run_succ hrun
    obtain ⟨hx, hpass⟩ := nextTurn_of_cons hturns
    obtain ⟨htrace, hu⟩ := acceptedTrace_of_goesOn (by rw [hx]; exact hgo x (by simp)) hstep
    exact (ih (hu.trans hpass) (fun y hy => hgo y (by simp [hy])) hrun).trans htrace

/-- Settles O33: the run keeps the trace to be, which at its end is the trace. -/
theorem commandDeliversItsItemList : Obligations.CommandDeliversItsItemList := by
  unfold Obligations.CommandDeliversItsItemList
  intro s t ts rest hb hturns hgo hrun htb htq
  calc t.delivered = acceptedTrace t := (acceptedTrace_of_idle htb htq).symm
    _ = acceptedTrace s := acceptedTrace_run hturns hgo hrun
    _ = s.delivered ++ (s.q ++ s.cmdItems.drop s.pos).map (fun it => (it, true)) := by
      simp [acceptedTrace, pendingItems, hb]

end Sys2Proof.Machine
end

/-! ### Single turns, registers and reset -/

section
namespace Sys2Proof.Machine

open Sys2Proof

theorem step_of_engine {s : State} (hn : nextTurn s = .engine) : step s = .next (engineTurn (passTurn s)) := by
  simp [step, hn]

theorem step_of_sink {s : State} {ok : Bool} (hn : nextTurn s = .sink ok) :
    step s = .next (sinkTurn ok (passTurn s)) := by simp [step, hn]

/-- Settles O29, by whether the item was the last and whose command it completes. -/
theorem engineStepEnqueuesTheNextItem : Obligations.EngineStepEnqueuesTheNextItem := by
  unfold Obligations.EngineStepEnqueuesTheNextItem
  intro s it hn hb hi hq
  rw [step_of_engine hn, engineTurn_of_enabled (by simpa using hb) (by simpa using hi) (by simpa using hq)]
  refine ⟨fun hlast => ?_, fun hlast hani => ?_, fun hlast hani => ?_⟩
  · simp [completeIfLast, enqueue, hlast]
  · simp [completeIfLast, complete, storeLast, enqueue, hlast, hani]
  · simp [completeIfLast, complete, storeLast, enqueue, hlast, hani]

/-- Settles O30: without BUSY or without room the engine is not enabled. -/
theorem engineWaitsForRoom : Obligations.EngineWaitsForRoom := by
  unfold Obligations.EngineWaitsForRoom
  intro s hn hwait
  have hoff : engineEnabled (passTurn s) = false := by
    rcases hwait with hb | hq
    · simp [engineEnabled, hb]
    · simp [engineEnabled, hq]
  rw [step_of_engine hn, engineTurn_of_disabled hoff]

/-- Settles O31, by what stands in Q and what the sink answers. -/
theorem sinkTakesTheHead : Obligations.SinkTakesTheHead := by
  unfold Obligations.SinkTakesTheHead
  intro s ok hn
  rw [step_of_sink hn]
  refine ⟨?_, ?_, ?_⟩
  · rintro it rest hq rfl
    simp [sinkTurn, hq, takeHead]
  · rintro it rest hq rfl
    exact ⟨_, rfl, by simp [sinkTurn, hq]⟩
  · intro hq
    simp [sinkTurn, hq]

/-- Laying two words end to end adds the upper one with the lower one's weight. -/
theorem toNat_append_eq_add {m n : Nat} (x : BitVec m) (y : BitVec n) :
    (x ++ y).toNat = x.toNat * 2 ^ n + y.toNat := by
  rw [BitVec.toNat_append, ← Nat.shiftLeft_add_eq_or_of_lt y.isLt, Nat.shiftLeft_eq]

/-- R17: PARAM as a number. -/
theorem paramWord_toNat (p : Params) :
    (paramWord p).toNat = min p.outDepth 255 * 2 ^ 16 + p.fbMaxCols % 2 ^ 16 := by
  have hd : min p.outDepth 255 % 2 ^ 8 = min p.outDepth 255 := Nat.mod_eq_of_lt (by omega)
  simp only [paramWord, toNat_append_eq_add, BitVec.toNat_ofNat, hd]
  omega

/-- R19: STATUS as a number. -/
theorem statusWord_toNat (s : State) :
    (statusWord s).toNat = s.busy.toNat + 2 * s.err.toNat + 4 * s.bwe.toNat + 8 * s.lastValid.toNat +
      16 * s.errCode.bits.toNat := by
  simp only [statusWord, toNat_append_eq_add, BitVec.toNat_ofBool, BitVec.toNat_ofNat]
  omega

/-- Settles O36, register by register. -/
theorem registersReadBack : Obligations.RegistersReadBack := by
  unfold Obligations.RegistersReadBack
  intro s
  refine ⟨memRead_reg s .id, ?_, memRead_reg s .cmd, ?_, memRead_reg s .errinfo, memRead_reg s .rsDelay,
    memRead_reg s .csDelay, memRead_reg s .initDelay, memRead_reg s .holdDelay, memRead_reg s .items⟩
  · rintro ⟨-, -, hcols, -⟩
    refine ⟨_, memRead_reg s .param, ?_⟩
    simp only [regRead, paramWord_toNat]
    omega
  · rw [BitVec.ofNat_toNat]
    exact memRead_reg s .width

/-- Settles O37: STATUS as a number, with each code's bits. -/
theorem statusLayout : Obligations.StatusLayout := by
  unfold Obligations.StatusLayout
  intro s
  refine ⟨_, memRead_reg s .status, ?_⟩
  simp only [regRead, statusWord_toNat]
  cases s.errCode <;> rfl

/-- Settles O38: an idle block stores each of the five. -/
theorem registerWritesStore : Obligations.RegisterWritesStore := by
  unfold Obligations.RegisterWritesStore
  intro s v hb
  refine ⟨⟨_, memWrite_reg_idle .width v (by decide) hb, rfl, ?_⟩,
    memWrite_reg_idle .rsDelay v (by decide) hb, memWrite_reg_idle .csDelay v (by decide) hb,
    memWrite_reg_idle .initDelay v (by decide) hb, memWrite_reg_idle .holdDelay v (by decide) hb⟩
  rw [show v.toNat % 65536 = (v.setWidth 16).toNat from (BitVec.toNat_setWidth 16 v).symm, BitVec.ofNat_toNat]
  exact memRead_reg (storeTarget 4 v s (.reg .width)) .width

/-- R99, R132: no bit of the blank frame is lit. -/
theorem frameBit_blankFrame (r c : Nat) : frameBit blankFrame r c = false := by simp [frameBit]

/-- Settles O1: the values of `State.reset`, field by field. -/
theorem resetLeavesTheStatedValues : Obligations.ResetLeavesTheStatedValues := by
  unfold Obligations.ResetLeavesTheStatedValues
  refine ⟨by decide, by decide, ?_, fun _ => rfl, rfl, rfl, rfl, rfl⟩
  exact fun r _ c _ => ⟨frameBit_blankFrame r c, frameBit_blankFrame r c⟩

end Sys2Proof.Machine
end

/-! ### What the map admits, and what a write answers -/

section
namespace Sys2Proof.Machine

open Sys2Proof

/-- R50, R51: a read gets BusError exactly outside the map. -/
theorem memRead_none_iff (s : State) (off n : Nat) : memRead s off n = none ↔ ¬ legalAccess s.params off n := by
  rw [memRead, Option.map_eq_none_iff, busTarget_none_iff]

/-- R50, R51: a write gets BusError exactly outside the map. -/
theorem memWrite_fault_iff (s : State) (off n : Nat) (v : Word) :
    memWrite off n v s = .fault .busError ↔ ¬ legalAccess s.params off n := by
  rw [← busTarget_none_iff]
  rcases memWrite_outcome off n v s with ⟨hnone, hfault⟩ | ⟨hsome, t, hnext⟩
  · simp [hnone, hfault]
  · simp [hsome, hnext]

/-- R45 to R48: a legal read answers a value. -/
theorem memRead_of_legal {s : State} {off n : Nat} (h : legalAccess s.params off n) :
    ∃ v, memRead s off n = some v :=
  Option.ne_none_iff_exists'.1 fun hnone => (memRead_none_iff s off n).1 hnone h

/-- Settles O35: reads and writes go through the same map. -/
theorem busErrorExactlyOnIllegalAccess : Obligations.BusErrorExactlyOnIllegalAccess := by
  unfold Obligations.BusErrorExactlyOnIllegalAccess
  exact fun s off n v => ⟨memRead_none_iff s off n, memWrite_fault_iff s off n v⟩

/-- R52: a write of a register that is neither refused nor stored changes nothing, BUSY or not. -/
theorem memWrite_reg_ignored {s : State} {r : Reg} {v : Word} (hc : r ≠ .cmd)
    (hr : refusedWhileBusy (.reg r) = false) (hst : storeTarget 4 v s (.reg r) = s) :
    memWrite r.offset 4 v s = .next s := by
  rw [memWrite_reg r v hc]
  simp [hr, hst]

/-- Settles O40: each of the four is neither refused nor stored. -/
theorem readOnlyWritesAreIgnored : Obligations.ReadOnlyWritesAreIgnored := by
  unfold Obligations.ReadOnlyWritesAreIgnored
  rintro s v off (rfl | rfl | rfl | rfl)
  · exact memWrite_reg_ignored (r := .id) (by decide) rfl rfl
  · exact memWrite_reg_ignored (r := .param) (by decide) rfl rfl
  · exact memWrite_reg_ignored (r := .errinfo) (by decide) rfl rfl
  · exact memWrite_reg_ignored (r := .items) (by decide) rfl rfl

/-- R55: while BUSY = 1 a write of a refused target sets BWE and changes nothing else, CMD among them. -/
theorem memWrite_refused {s : State} {off n : Nat} {v : Word} {tg : Target}
    (ht : busTarget s.params off n = some tg) (hb : s.busy = true) (hr : refusedWhileBusy tg = true) :
    memWrite off n v s = .next (setBwe s) := by
  by_cases hc : tg = .reg .cmd
  · subst hc
    obtain ⟨rfl, rfl⟩ := (busTarget_reg_iff _ _ _ _).1 ht
    exact (memWrite_cmd v s).trans (by simp [issue, hb])
  · rw [memWrite_of_target ht hc]
    simp [hb, hr]

/-- R55: the accesses whose writes are refused reach a refused target. -/
theorem busTarget_of_refused_access {p : Params} {off n : Nat}
    (h : (n = 4 ∧ (off = 0x008 ∨ off = 0x010 ∨ off = 0x018 ∨ off = 0x01C ∨ off = 0x020 ∨ off = 0x024)) ∨
      lastAccess off n ∨ fbAccess p off n) :
    ∃ tg, busTarget p off n = some tg ∧ refusedWhileBusy tg = true := by
  have reg : ∀ r : Reg, refusedWhileBusy (.reg r) = true →
      ∃ tg, busTarget p r.offset 4 = some tg ∧ refusedWhileBusy tg = true :=
    fun r hr => ⟨_, (busTarget_reg_iff p _ 4 r).2 ⟨rfl, rfl⟩, hr⟩
  rcases h with ⟨rfl, rfl | rfl | rfl | rfl | rfl | rfl⟩ | hlast | hfb
  · exact reg .cmd rfl
  · exact reg .width rfl
  · exact reg .rsDelay rfl
  · exact reg .csDelay rfl
  · exact reg .initDelay rfl
  · exact reg .holdDelay rfl
  · exact ⟨_, (busTarget_last_iff p off n _).2 ⟨hlast, rfl⟩, rfl⟩
  · exact ⟨_, (busTarget_fb_iff p off n off).2 ⟨hfb, rfl⟩, rfl⟩

/-- Settles O41, target by target. -/
theorem writesWhileBusyAreRefused : Obligations.WritesWhileBusyAreRefused := by
  unfold Obligations.WritesWhileBusyAreRefused
  intro s off n v hb
  refine ⟨fun hacc => ?_, ?_, ?_, memRead_of_legal⟩
  · obtain ⟨tg, ht, hr⟩ := busTarget_of_refused_access hacc
    exact memWrite_refused ht hb hr
  · rintro ⟨rfl, rfl⟩
    refine ⟨_, memWrite_reg .status v (by decide), ?_⟩
    simp [refusedWhileBusy, storeTarget, BitVec.getLsbD, Nat.testBit_eq_decide_div_mod_eq, ← decide_not]
  · rintro ⟨rfl, hoff⟩
    exact readOnlyWritesAreIgnored s v off hoff

/-- Settles O28: in each outcome of `exec_cases` the fields named stay as they were, those a command writes apart. -/
theorem commandsLeaveTheRest : Obligations.CommandsLeaveTheRest := by
  unfold Obligations.CommandsLeaveTheRest
  intro i s
  rcases exec_cases i s with ⟨-, e⟩ | ⟨-, -, e⟩ | ⟨a, b, -, -, e⟩ | ⟨-, e⟩ | ⟨rfl, e⟩ | ⟨rfl, e⟩ | ⟨rfl, e⟩ <;>
    exact ⟨_, e, fbByte_congr (by simp) (by simp), by simp⟩

end Sys2Proof.Machine
end

/-! ### The host's turn -/

section
namespace Sys2Proof.Machine

open Sys2Proof

/-- R49: a read that answers a value leaves it as the bus's answer. -/
theorem hostRead_of_some {s : State} {off n : Nat} {v : Word} (h : memRead s off n = some v) :
    hostRead off n s = .next { s with busResp := .data v } := by simp [hostRead, h]

/-- R50: a read that answers nothing faults the step. -/
theorem hostRead_of_none {s : State} {off n : Nat} (h : memRead s off n = none) :
    hostRead off n s = .fault .busError := by simp [hostRead, h]

section
variable {s : State} {rest : List HostOp} {off n : Nat} (hn : nextTurn s = .host)
include hn

/-- R5: a host turn of `step` is `hostTurn` of the program as it stands. -/
theorem step_of_host {prog : List HostOp} (hp : s.hostProg = prog) :
    step s = hostTurn (afterHost prog (passTurn s).busResp s) := by
  rw [← hp, ← passTurn_hostProg]
  simp only [step, hn]
  rfl

/-- R49: a host turn whose read the map admits. -/
theorem step_of_read {v : Word} (hp : s.hostProg = .read off n :: rest) (hm : memRead s off n = some v) :
    step s = .next (afterHost rest (.data v) s) :=
  (step_of_host hn hp).trans (hostRead_of_some ((memRead_afterHost rest _ s off n).trans hm))

/-- R50: a host turn whose read the map rejects. -/
theorem step_of_illegal_read (hp : s.hostProg = .read off n :: rest) (hm : memRead s off n = none) :
    step s = .fault .busError :=
  (step_of_host hn hp).trans (hostRead_of_none ((memRead_afterHost rest _ s off n).trans hm))

/-- R49: a host turn that writes. -/
theorem step_of_write {v : Word} (hp : s.hostProg = .write off n v :: rest) :
    step s = memWrite off n v (afterHost rest .done s) :=
  step_of_host hn hp

/-- R74: a host turn of WAIT reads STATUS and keeps the line while BUSY reads 1. -/
theorem step_of_wait (hp : s.hostProg = .wait :: rest) :
    step s = .next (afterHost (if s.busy then .wait :: rest else rest) (.data (regRead s .status)) s) := by
  have hw : statusWord (afterHost (.wait :: rest) (passTurn s).busResp s) = statusWord s :=
    readTarget_afterHost _ _ s 4 (.reg .status)
  rw [step_of_host hn hp]
  change Host.Outcome.next (hostWait rest (afterHost (.wait :: rest) (passTurn s).busResp s)) = _
  rw [hostWait, hw, statusWord_busy]
  cases s.busy <;> rfl

/-- A host with no access left only passes the turn (log 6). -/
theorem step_of_no_access (hp : s.hostProg = []) : step s = .next (passTurn s) := by
  simp [step, hn, hostTurn, hp]

end

/-- Settles O7, access by access. -/
theorem hostTurnIsBusAccess : Obligations.HostTurnIsBusAccess := by
  unfold Obligations.HostTurnIsBusAccess
  intro s rest hn
  refine ⟨fun off n hp => ⟨fun v hm => step_of_read hn hp hm, step_of_illegal_read hn hp⟩,
    fun off n v hp => step_of_write hn hp, fun hp => ⟨fun hb => ?_, fun hb => ?_⟩, step_of_no_access hn⟩
  · simpa [hb] using step_of_wait hn hp
  · simpa [hb] using step_of_wait hn hp

/-- Settles O42: the turn's bookkeeping does not show on the bus (`memRead_afterHost`). -/
theorem readsHaveNoSideEffects : Obligations.ReadsHaveNoSideEffects := by
  unfold Obligations.ReadsHaveNoSideEffects
  intro s off n rest hn hp hacc
  obtain ⟨v, hm⟩ := memRead_of_legal hacc
  exact ⟨v, step_of_read hn hp hm, (memRead_afterHost rest _ s off n).trans hm⟩

/-- R50, R101: a step answers a next state, or a host access outside the map faults it. -/
theorem step_outcome (s : State) :
    (∃ t, step s = .next t) ∨
    (step s = .fault .busError ∧ nextTurn s = .host ∧ ∃ off n rest,
      ((s.hostProg = .read off n :: rest) ∨ ∃ v, s.hostProg = .write off n v :: rest) ∧
        ¬ legalAccess s.params off n) := by
  cases hn : nextTurn s with
  | engine => exact .inl ⟨_, step_of_engine hn⟩
  | sink ok => exact .inl ⟨_, step_of_sink hn⟩
  | reset => exact .inl ⟨resetTurn (passTurn s), by simp [step, hn]⟩
  | host =>
    match hp : s.hostProg with
    | [] => exact .inl ⟨_, step_of_no_access hn hp⟩
    | .wait :: rest => exact .inl ⟨_, step_of_wait hn hp⟩
    | .read off n :: rest =>
      cases hm : memRead s off n with
      | some v => exact .inl ⟨_, step_of_read hn hp hm⟩
      | none =>
        exact .inr ⟨step_of_illegal_read hn hp hm, rfl, off, n, rest, .inl rfl, (memRead_none_iff s off n).1 hm⟩
    | .write off n v :: rest =>
      rw [step_of_write hn hp]
      rcases memWrite_outcome off n v (afterHost rest .done s) with ⟨hnone, hfault⟩ | ⟨-, hnext⟩
      · rw [afterHost_params, busTarget_none_iff] at hnone
        exact .inr ⟨hfault, rfl, off, n, rest, .inr ⟨v, rfl⟩, hnone⟩
      · exact .inl hnext

/-- Settles O52, by the two outcomes of `step_outcome`. -/
theorem onlyBusErrorsStopTheMachine : Obligations.OnlyBusErrorsStopTheMachine := by
  unfold Obligations.OnlyBusErrorsStopTheMachine
  intro s
  rcases step_outcome s with ⟨t, h⟩ | ⟨h, hturn, haccess⟩
  · simp [h]
  · exact ⟨by simp [h], fun f hf => ⟨by cases hf.symm.trans h; rfl, hturn, haccess⟩⟩

end Sys2Proof.Machine
end

/-! ### The two windows -/

section
namespace Sys2Proof.Machine

open Sys2Proof

/-- A write of any target but CMD is stored while the block is idle. -/
theorem memWrite_of_idle {s : State} {off n : Nat} {v : Word} {tg : Target} (hb : s.busy = false)
    (ht : busTarget s.params off n = some tg) (hc : tg ≠ .reg .cmd) :
    memWrite off n v s = .next (storeTarget n v s tg) := by simp [memWrite_of_target ht hc, hb]

theorem fbAccess_size {p : Params} {off n : Nat} (h : fbAccess p off n) : n = 1 ∨ n = 2 ∨ n = 4 := h.2.2.1

theorem lastAccess_size {off n : Nat} (h : lastAccess off n) : n = 1 ∨ n = 2 ∨ n = 4 := h.2.2.1

/-- R48: an FB read assembles the bytes of FB. -/
theorem memRead_fb {s : State} {off n : Nat} (h : fbAccess s.params off n) :
    memRead s off n = some (joinBytes n fun k => fbByte s (off + k)) :=
  memRead_of_target ((busTarget_fb_iff _ off n off).2 ⟨h, rfl⟩)

/-- R47: a LAST read assembles the bytes of LASTBUF. -/
theorem memRead_last {s : State} {off n : Nat} (h : lastAccess off n) :
    memRead s off n = some (joinBytes n fun k => frameByte s.lastBuf (off - 0x100 + k)) :=
  memRead_of_target ((busTarget_last_iff _ off n _).2 ⟨h, rfl⟩)

/-- R48: an idle block stores an FB write. -/
theorem memWrite_fb {s : State} {off n : Nat} {v : Word} (hb : s.busy = false) (h : fbAccess s.params off n) :
    memWrite off n v s = .next (storeTarget n v s (.fb off)) :=
  memWrite_of_idle hb ((busTarget_fb_iff _ off n off).2 ⟨h, rfl⟩) (by simp)

/-- R47: an idle block stores a LAST write. -/
theorem memWrite_last {s : State} {off n : Nat} {v : Word} (hb : s.busy = false) (h : lastAccess off n) :
    memWrite off n v s = .next (storeTarget n v s (.last (off - 0x100))) :=
  memWrite_of_idle hb ((busTarget_last_iff _ off n _).2 ⟨h, rfl⟩) (by simp)

/-- R49: a byte lane of a word, as a number. -/
theorem byteLane_toNat (v : Word) (j : Nat) :
    (v.extractLsb' (8 * j) 8).toNat = v.toNat / 2 ^ (8 * j) % 256 := by
  rw [BitVec.extractLsb'_toNat, Nat.shiftRight_eq_div_pow]

/-- R49: a read of `n` bytes is below 2^(8n). -/
theorem joinBytes_lt {n : Nat} (f : Nat → Byte) (hn : n = 1 ∨ n = 2 ∨ n = 4) :
    (joinBytes n f).toNat < 2 ^ (8 * n) := by
  have hlow := joinBytes_split n (joinBytes n f) f hn fun j hj => (joinBytes_extract n f hn j hj).symm
  calc (joinBytes n f).toNat = (BitVec.ofNat 32 ((joinBytes n f).toNat % 2 ^ (8 * n))).toNat :=
        congrArg BitVec.toNat hlow
    _ ≤ (joinBytes n f).toNat % 2 ^ (8 * n) := by
        rw [BitVec.toNat_ofNat]
        exact Nat.mod_le _ _
    _ < 2 ^ (8 * n) := Nat.mod_lt _ (by positivity)

/-- R49: a read's byte lanes are the bytes read. -/
theorem joinBytes_lane {n j : Nat} (f : Nat → Byte) (hn : n = 1 ∨ n = 2 ∨ n = 4) (hj : j < n) :
    (joinBytes n f).toNat / 2 ^ (8 * j) % 256 = (f j).toNat := by
  rw [← byteLane_toNat, joinBytes_extract n f hn j hj]

/-- R49: an 8-bit read has the bits of its byte. -/
theorem joinBytes_one_getLsbD {i : Nat} (f : Nat → Byte) (hi : i < 8) :
    (joinBytes 1 f).getLsbD i = (f 0).getLsbD i := by
  rw [← joinBytes_extract 1 f (.inl rfl) 0 Nat.one_pos]
  simp [hi]

/-- Settles O45, window by window. -/
theorem windowReadsLittleEndian : Obligations.WindowReadsLittleEndian := by
  unfold Obligations.WindowReadsLittleEndian
  intro s off n
  constructor
  · intro h
    exact ⟨_, memRead_fb h, joinBytes_lt _ (fbAccess_size h), fun j => joinBytes_lane _ (fbAccess_size h)⟩
  · intro h
    exact ⟨_, memRead_last h, joinBytes_lt _ (lastAccess_size h), fun j => joinBytes_lane _ (lastAccess_size h)⟩

/-- R48, R49: the bytes an FB store writes. -/
theorem fbByte_storeTarget_of_inside {off n j : Nat} (v : Word) (s : State) (hj : j < n) :
    fbByte (storeTarget n v s (.fb off)) (off + j) = v.extractLsb' (8 * j) 8 := by
  rw [fbByte, storeTarget, Memory.get?_setBytes, if_pos (by simpa using hj), Nat.add_sub_cancel_left]
  exact splitBytes_getD n v j hj

/-- R47, R49: the bytes a LAST store writes. -/
theorem frameByte_storeTarget_of_inside {k n j : Nat} (v : Word) (s : State) (hj : j < n) (hk : k + j < 48) :
    frameByte (storeTarget n v s (.last k)).lastBuf (k + j) = v.extractLsb' (8 * j) 8 := by
  rw [storeTarget, frameByte_frameSetBytes _ _ _ _ hk, if_pos (by simpa using hj), Nat.add_sub_cancel_left,
    splitBytes_getD n v j hj]

/-- R47: a LAST store leaves the bytes outside the written ones. -/
theorem frameByte_storeTarget_of_outside {k n x : Nat} (v : Word) (s : State) (hx : x < 48)
    (hout : ¬(k ≤ x ∧ x < k + n)) :
    frameByte (storeTarget n v s (.last k)).lastBuf x = frameByte s.lastBuf x := by
  rw [storeTarget, frameByte_frameSetBytes _ _ _ _ hx, splitBytes_length, if_neg hout]

/-- Settles O43: the stored bytes are the data's lanes, and a read joins them again. -/
theorem fbWriteStoresLittleEndian : Obligations.FbWriteStoresLittleEndian := by
  unfold Obligations.FbWriteStoresLittleEndian
  intro s off n v hb h
  refine ⟨_, memWrite_fb hb h, rfl, fun j hj => ?_, fun a => fbByte_storeTarget_of_outside v s, ?_,
    fun hwf => Memory.setBytes_wf _ hwf off⟩
  · rw [fbByte_storeTarget_of_inside v s hj, byteLane_toNat]
  · have hread : memRead (storeTarget n v s (.fb off)) off n = _ := memRead_fb (by simpa using h)
    rw [hread, joinBytes_split n v _ (fbAccess_size h) fun j hj => fbByte_storeTarget_of_inside v s hj]

/-- R47: an aligned access that begins in the LAST window ends in it. -/
theorem lastAccess_end {off n : Nat} (h : lastAccess off n) : off - 0x100 + n ≤ 48 := by
  obtain ⟨hlo, hhi, rfl | rfl | rfl, hal⟩ := h <;> omega

/-- Settles O44: the stored bytes are the data's lanes, and a read joins them again. -/
theorem lastWriteStoresLittleEndian : Obligations.LastWriteStoresLittleEndian := by
  unfold Obligations.LastWriteStoresLittleEndian
  intro s off n v hb h
  have hend := lastAccess_end h
  have hin : ∀ j < n, frameByte (storeTarget n v s (.last (off - 0x100))).lastBuf (off - 0x100 + j) =
      v.extractLsb' (8 * j) 8 := fun j hj => frameByte_storeTarget_of_inside v s hj (by omega)
  refine ⟨_, memWrite_last hb h, rfl, fun j hj => ?_, fun x hx => frameByte_storeTarget_of_outside v s hx, ?_⟩
  · rw [hin j hj, byteLane_toNat]
  · rw [memRead_last h, joinBytes_split n v _ (lastAccess_size h) hin]

end Sys2Proof.Machine
end

/-! ### Bits of the windows -/

section
namespace Sys2Proof.Machine

open Sys2Proof

/-- R53: the byte of FB that holds a column, and the bit it stands in. -/
theorem fbBit_column (s : State) (r b : Nat) {i : Nat} (hi : i < 8) :
    fbBit s r (8 * b + i) = (fbByte s (fbOffset s.params r b)).getLsbD i := by
  have hbyte : (8 * b + i) / 8 = b := by omega
  have hbit : (8 * b + i) % 8 = i := by omega
  rw [fbBit, hbyte, hbit]

/-- R45, R53: every byte of a row lies in the FB window. -/
theorem fbAccess_fbOffset {p : Params} {r b : Nat} (hr : r < 6) (hb : b < p.stride) :
    fbAccess p (fbOffset p r b) 1 := by
  have hrow : (r + 1) * p.stride ≤ 6 * p.stride := Nat.mul_le_mul_right _ hr
  rw [Nat.succ_mul] at hrow
  have hend : fbOffset p r b + 1 ≤ 0x10000 + 6 * p.stride := by
    simp only [fbOffset, fbBase]
    omega
  exact ⟨by simp only [fbOffset, fbBase]; omega, hend, .inl rfl, Nat.mod_one _⟩

/-- R53: different bytes of different rows stand at different offsets. -/
theorem fbOffset_inj {p : Params} {r r' b b' : Nat} (hb : b < p.stride) (hb' : b' < p.stride) :
    fbOffset p r' b' = fbOffset p r b ↔ r' = r ∧ b' = b := by
  refine ⟨fun h => ?_, fun ⟨hr, hb⟩ => by rw [hr, hb]⟩
  have h' : b' + p.stride * r' = b + p.stride * r := by
    simp only [fbOffset, Nat.mul_comm _ p.stride] at h
    omega
  have hbytes : b' = b := by
    simpa [Nat.mod_eq_of_lt hb, Nat.mod_eq_of_lt hb'] using congrArg (· % p.stride) h'
  have hrows : p.stride * r' = p.stride * r := by omega
  exact ⟨Nat.eq_of_mul_eq_mul_left (by omega) hrows, hbytes⟩

/-- R53: an 8-bit store into FB sets the eight columns of its byte and leaves the others. -/
theorem fbBit_storeTarget_byte {s : State} {r b r' c : Nat} (v : Word) (hb : b < s.params.stride)
    (hc : c / 8 < s.params.stride) :
    fbBit (storeTarget 1 v s (.fb (fbOffset s.params r b))) r' c =
      if r' = r ∧ c / 8 = b then v.getLsbD (c % 8) else fbBit s r' c := by
  rw [fbBit, storeTarget_params]
  split
  case isTrue h =>
    obtain ⟨rfl, rfl⟩ := h
    have hbyte := fbByte_storeTarget_of_inside (off := fbOffset s.params r' (c / 8)) v s Nat.one_pos
    rw [Nat.add_zero] at hbyte
    rw [hbyte]
    simp [Nat.mod_lt]
  case isFalse h =>
    have hne : fbOffset s.params r' (c / 8) ≠ fbOffset s.params r b := fun e => h ((fbOffset_inj hb hc).1 e)
    rw [fbByte_storeTarget_of_outside v s (by omega)]
    rfl

/-- Settles O46: an 8-bit access of the byte at `fbOffset` is one of its eight columns. -/
theorem fbByteHoldsEightColumns : Obligations.FbByteHoldsEightColumns := by
  unfold Obligations.FbByteHoldsEightColumns
  intro s r b v hlegal hr hb
  obtain ⟨hmul, -, -, -⟩ := hlegal
  have hacc : fbAccess s.params (fbOffset s.params r b) 1 := fbAccess_fbOffset hr hb
  refine ⟨⟨_, memRead_fb hacc, fun i hi => ?_⟩, fun hidle => ⟨_, memWrite_fb hidle hacc, fun r' _ c hc => ?_⟩⟩
  · exact (joinBytes_one_getLsbD _ hi).trans (fbBit_column s r b hi).symm
  · exact fbBit_storeTarget_byte v hb (show c / 8 < s.params.fbMaxCols / 8 by omega)

/-- R54: the byte of a device frame that holds a column, and the bit it stands in. -/
theorem frameBit_column (f : DeviceFrame) (r : Nat) {b i : Nat} (hi : i < 8) :
    frameBit f r (8 * b + i) = (frameByte f (8 * r + b)).getLsbD i := by
  have hbyte : (8 * b + i) / 8 = b := by omega
  have hbit : (8 * b + i) % 8 = i := by omega
  rw [frameBit, hbyte, hbit]

/-- R54, R78: a device frame is the storage of its own bitmap. -/
theorem frameOf_frameBit (f : DeviceFrame) : frameOf (frameBit f) = f := by
  ext j hj
  have hpack : packByte (frameBit f) (j / 8) (j % 8) = f[j] := by
    refine packByte_eq_of_bits _ _ _ _ fun i hi => ?_
    rw [frameBit_column f _ hi, Nat.div_add_mod]
    simp [frameByte, hj]
  simp [frameOf, hpack]

/-- Settles O47: LASTBUF is the storage of its bitmap, whose bytes are its encoding. -/
theorem lastWindowIsTheWireFormat : Obligations.LastWindowIsTheWireFormat := by
  unfold Obligations.LastWindowIsTheWireFormat
  intro s
  constructor
  · rw [← frameOf_toList, frameOf_frameBit]
  · intro r hr b hb i hi
    refine ⟨_, memRead_last ⟨by omega, by omega, .inl rfl, Nat.mod_one _⟩, ?_⟩
    rw [joinBytes_one_getLsbD _ hi, frameBit_column _ _ hi, show 0x100 + 8 * r + b - 0x100 + 0 = 8 * r + b by omega]

end Sys2Proof.Machine
end

/-! ### A canonical memory is known by its reads -/

section
namespace Sys2Proof.Machine

open Sys2Proof

/-- The canonical form, entry by entry. -/
theorem Memory.wf_cons {k : Nat} {b : Byte} {m : Memory} :
    Memory.wf ((k, b) :: m) ↔ (∀ c ∈ m, k < c.1) ∧ Memory.wf m := by simp [Memory.wf]

/-- The first entry is read at its own offset. -/
@[simp] theorem Memory.get?_cons_self (kc : Host.Cell) (m : Memory) : Memory.get? (kc :: m) kc.1 = some kc.2 := by
  obtain ⟨k, c⟩ := kc
  simp [Memory.get?_cons]

/-- In a canonical memory no offset below the first entry's is listed. -/
theorem Memory.get?_cons_of_lt {k a : Nat} {b : Byte} {m : Memory} (h : Memory.wf ((k, b) :: m)) (ha : a < k) :
    Memory.get? ((k, b) :: m) a = none := by
  refine Memory.get?_eq_none_of_lt fun c hc => ?_
  rcases List.mem_cons.1 hc with rfl | hc
  · exact ha
  · exact ha.trans ((Memory.wf_cons.1 h).1 c hc)

/-- Canonical memories that read the same are equal. -/
theorem Memory.eq_of_get?_eq {m m' : Memory} (hm : Memory.wf m) (hm' : Memory.wf m')
    (h : ∀ a, Memory.get? m a = Memory.get? m' a) : m = m' := by
  induction m generalizing m' with
  | nil =>
    cases m' with
    | nil => rfl
    | cons kc' m' => simpa using (h kc'.1).trans (Memory.get?_cons_self kc' m')
  | cons kc m ih =>
    obtain ⟨k, c⟩ := kc
    cases m' with
    | nil => simpa using (Memory.get?_cons_self (k, c) m).symm.trans (h k)
    | cons kc' m' =>
      obtain ⟨k', c'⟩ := kc'
      have hk : k = k' := by
        rcases Nat.lt_trichotomy k k' with hlt | heq | hlt
        · simpa [Memory.get?_cons_of_lt hm' hlt, Memory.get?_cons] using h k
        · exact heq
        · simpa [Memory.get?_cons_of_lt hm hlt, Memory.get?_cons] using h k'
      subst hk
      have hc : c = c' := by simpa [Memory.get?_cons] using h k
      obtain ⟨hlow, hm⟩ := Memory.wf_cons.1 hm
      obtain ⟨hlow', hm'⟩ := Memory.wf_cons.1 hm'
      have htail : m = m' := ih hm hm' fun a => by
        by_cases ha : a = k
        · rw [ha, Memory.get?_eq_none_of_lt hlow, Memory.get?_eq_none_of_lt hlow']
        · simpa [Memory.get?_cons, ha] using h a
      rw [hc, htail]

/-- Settles O48: a canonical memory is known by its reads (`Memory.eq_of_get?_eq`), and a store keeps the form. -/
theorem memoryIsCanonical : Obligations.MemoryIsCanonical := by
  unfold Obligations.MemoryIsCanonical
  exact ⟨fun m m' hm hm' h => Memory.eq_of_get?_eq hm hm' h,
    fun m a b h => ⟨Memory.set_wf h a b, fun x => Memory.get?_set m a x b⟩⟩

end Sys2Proof.Machine
end

/-! ### Words and commands -/

section
namespace Sys2Proof

/-- R65, R67: the word of a command decodes to the command. -/
theorem decode_encode (i : Instr) : decode (encode i) = .ok i := by
  cases i with
  | nop => exact Laws.RoundTrip.nop.2
  | encode => exact Laws.RoundTrip.encode.2
  | animate t h => exact (Laws.RoundTrip.animate t h).2
  | lastClear => exact Laws.RoundTrip.lastClear.2
  | lastSet => exact Laws.RoundTrip.lastSet.2
  | lastBlank => exact Laws.RoundTrip.lastBlank.2

/-- R64 to R67: a word decodes to a command exactly when it is that command's word. -/
theorem decode_eq_ok_iff {w : Word} {i : Instr} : decode w = .ok i ↔ w = encode i :=
  ⟨fun h => (encode_of_decode h).symm, fun h => h ▸ decode_encode i⟩

/-- Settles O4: `decode_encode` one way, `encode_of_decode` the other. -/
theorem decodeEncodeAgree : Obligations.DecodeEncodeAgree := by
  unfold Obligations.DecodeEncodeAgree
  exact fun _ _ => decode_eq_ok_iff

/-- R67: the words that decode, by R67's list. -/
theorem exists_decode_eq_ok_iff_listed (w : Word) : (∃ i, decode w = .ok i) ↔
    w = 0x00000000#32 ∨ w = 0x00000001#32 ∨ w = 0x00000002#32 ∨ w = 0x00000102#32 ∨ w = 0x00000202#32 ∨
      w = 0x00000302#32 ∨ w = 0x00000003#32 ∨ w = 0x00000004#32 ∨ w = 0x00000005#32 := by
  constructor
  · rintro ⟨i, hd⟩
    obtain rfl := decode_eq_ok_iff.1 hd
    cases i with
    | animate t h => cases t <;> cases h <;> decide
    | _ => decide
  · rintro (rfl | rfl | rfl | rfl | rfl | rfl | rfl | rfl | rfl)
    · exact ⟨_, decode_encode .nop⟩
    · exact ⟨_, decode_encode .encode⟩
    · exact ⟨_, decode_encode (.animate false false)⟩
    · exact ⟨_, decode_encode (.animate true false)⟩
    · exact ⟨_, decode_encode (.animate false true)⟩
    · exact ⟨_, decode_encode (.animate true true)⟩
    · exact ⟨_, decode_encode .lastClear⟩
    · exact ⟨_, decode_encode .lastSet⟩
    · exact ⟨_, decode_encode .lastBlank⟩

/-- R67: the words that decode, by R67's formula. OP and the two flags are all that is left of a word below 1024 with
w[7:4] clear, which gives R67's list. -/
theorem exists_decode_eq_ok_iff_fields (w : Word) : (∃ i, decode w = .ok i) ↔
    w.toNat % 16 ≤ 5 ∧ w.toNat / 16 % 16 = 0 ∧ w.toNat / 1024 = 0 ∧
      (w.toNat % 16 ≠ 2 → w.toNat / 256 % 4 = 0) := by
  rw [exists_decode_eq_ok_iff_listed]
  simp only [← BitVec.toNat_inj, BitVec.toNat_ofNat, Nat.reducePow, Nat.reduceMod]
  omega

/-- Settles O5: the formula and the list. -/
theorem legalWordsAreExactlyNine : Obligations.LegalWordsAreExactlyNine := by
  unfold Obligations.LegalWordsAreExactlyNine
  exact fun w => ⟨exists_decode_eq_ok_iff_fields w, exists_decode_eq_ok_iff_listed w⟩

/-- R70: a reserved opcode, a reserved bit set, or a flag outside ANIMATE: the word decodes to no command. -/
theorem decode_ne_ok_of_illegal {w : Word}
    (h : 6 ≤ w.toNat % 16 ∨ w.toNat / 16 % 16 ≠ 0 ∨ w.toNat / 1024 ≠ 0 ∨
      (w.toNat % 16 ≠ 2 ∧ w.toNat / 256 % 4 ≠ 0)) (i : Instr) : decode w ≠ .ok i := by
  intro hd
  have hlegal := (exists_decode_eq_ok_iff_fields w).1 ⟨i, hd⟩
  omega

/-- Settles O3: the legal words are the commands' own, the others break R67's formula. -/
theorem decodeReadsTheSpecsWords : Obligations.DecodeReadsTheSpecsWords := by
  unfold Obligations.DecodeReadsTheSpecsWords
  exact ⟨decode_encode .nop, decode_encode .encode, decode_encode (.animate false false),
    decode_encode (.animate true false), decode_encode (.animate false true), decode_encode (.animate true true),
    decode_encode .lastClear, decode_encode .lastSet, decode_encode .lastBlank,
    fun i => ⟨decode_ne_ok_of_illegal (by decide) i, decode_ne_ok_of_illegal (by decide) i,
      decode_ne_ok_of_illegal (by decide) i, decode_ne_ok_of_illegal (by decide) i,
      decode_ne_ok_of_illegal (by decide) i⟩⟩

end Sys2Proof
end

/-! ### The CMD write of a word -/

section
namespace Sys2Proof.Machine

open Sys2Proof

/-- R110, R111: with ERR = 0 an error entry writes the three error fields and nothing else. -/
theorem errorEntry_of_noError {s : State} (code : ErrCode) (info : Word) (he : s.err = false) :
    errorEntry code info s = { s with err := true, errCode := code, errInfo := info } := by
  simp [errorEntry, he]

/-- R69: on an idle block with no error, the CMD write of a word that decodes to a command is the command. -/
theorem memWrite_cmd_of_ok {s : State} {w : Word} {i : Instr} (hb : s.busy = false) (he : s.err = false)
    (hd : decode w = .ok i) : memWrite 0x008 4 w s = exec i s :=
  (memWrite_cmd w s).trans (issue_of_ok hb he hd)

/-- R70: on an idle block with no error, the CMD write of a word that decodes to no command records the word. -/
theorem memWrite_cmd_of_ne_ok {s : State} {w : Word} (hb : s.busy = false) (he : s.err = false)
    (hd : ∀ i, decode w ≠ .ok i) :
    memWrite 0x008 4 w s = .next { s with err := true, errCode := .illegalCommand, errInfo := w } := by
  cases hw : decode w with
  | ok i => exact absurd hw (hd i)
  | error e => rw [memWrite_cmd, issue_of_error hb he hw, errorEntry_of_noError _ _ he]

/-- Settles O9: each class of R70 keeps the word from decoding. -/
theorem illegalWordRecordsItself : Obligations.IllegalWordRecordsItself := by
  unfold Obligations.IllegalWordRecordsItself
  exact ⟨rfl, fun _ _ hb he hw => memWrite_cmd_of_ne_ok hb he (decode_ne_ok_of_illegal hw)⟩

/-- R69: the host turn that issues a word is the command the word decodes to. -/
theorem step_of_issues {s : State} {w : Word} {i : Instr} {rest : List HostOp} (h : Issues s w rest)
    (hd : decode w = .ok i) : step s = exec i (afterHost rest .done s) := by
  obtain ⟨hn, hp, hb, he⟩ := h
  rw [step_of_write hn hp]
  exact memWrite_cmd_of_ok (by simpa using hb) (by simpa using he) hd

/-- `withFetchWord` issues the word it is given (log 8). -/
theorem issues_withFetchWord {s : State} (w : Word) (hb : s.busy = false) (he : s.err = false) :
    Issues (s.withFetchWord 32 w.toNat) w s.hostProg where
  turn := rfl
  prog := by simp [State.withFetchWord, Reg.offset, Nat.mod_eq_of_lt w.isLt]
  idle := hb
  noError := he

/-- What is left of `withFetchWord`'s turn and access once they are used up (log 8). -/
theorem afterHost_withFetchWord (s : State) (nbits w : Nat) (resp : BusResp) :
    afterHost s.hostProg resp (s.withFetchWord nbits w) = { s with busResp := resp } := rfl

/-- Settles O6: both steps issue a word (`step_of_issues`). -/
theorem stepRunsTheDecodedCommand : Obligations.StepRunsTheDecodedCommand := by
  unfold Obligations.StepRunsTheDecodedCommand
  refine ⟨fun s w i rest hn hp hb he hd => step_of_issues ⟨hn, hp, hb, he⟩ hd, fun s i hb he => ?_⟩
  rw [step_of_issues (issues_withFetchWord (encode i) hb he) (decode_encode i), afterHost_withFetchWord]

end Sys2Proof.Machine
end

/-! ### Packing and ENCODE -/

section
namespace Sys2Proof.Machine

open Sys2Proof

/-- R75: a packed byte as a number: each lit column of the group adds its weight. -/
theorem packByte_toNat (F : Bitmap) (r g : Nat) :
    (packByte F r g).toNat = ((List.range 8).map fun i => if F r (8 * g + i) then 2 ^ i else 0).sum := by
  have hweight (i : Nat) : (F r (8 * g + i)).toNat * 2 ^ i = if F r (8 * g + i) then 2 ^ i else 0 := by
    cases F r (8 * g + i) <;> simp
  have hle (i : Nat) : (if F r (8 * g + i) then 2 ^ i else 0) ≤ 2 ^ i := by split <;> simp
  rw [packByte, BitVec.toNat_ofNat]
  simp only [hweight]
  refine Nat.mod_eq_of_lt ?_
  calc ((List.range 8).map fun i => if F r (8 * g + i) then 2 ^ i else 0).sum
    _ ≤ ((List.range 8).map fun i => 2 ^ i).sum := List.sum_le_sum fun i _ => hle i
    _ < 2 ^ 8 := by decide

/-- R75: the length of an encoding, as R75 writes it. -/
theorem enc_length_of_dvd (F : Bitmap) {w : Nat} (hw : w % 8 = 0) : (enc F w).length = 6 * w / 8 := by
  rw [enc_length]; omega

/-- Settles O15: the byte of a group is its `packByte`. -/
theorem encodedBytesInRowAndGroupOrder : Obligations.EncodedBytesInRowAndGroupOrder := by
  unfold Obligations.EncodedBytesInRowAndGroupOrder
  exact fun F w hw => ⟨enc_length_of_dvd F hw, fun r hr g hg =>
    ⟨packByte F r g, enc_getElem? F w r g hr hg, packByte_toNat F r g, packByte_getLsbD F r g⟩⟩

/-- R78: `dec` reads a column in the byte that holds it. -/
theorem dec_of_getElem? {B : List Byte} {w r c : Nat} {b : Byte} (h : B[r * (w / 8) + c / 8]? = some b) :
    dec B w r c = b.getLsbD (c % 8) := by
  rw [dec, List.getD_eq_getElem?_getD, h, Option.getD_some]

/-- R78: decoding gives the encoded bitmap back. -/
theorem dec_enc (F : Bitmap) {w r c : Nat} (hw : w % 8 = 0) (hr : r < 6) (hc : c < w) :
    dec (enc F w) w r c = F r c := by
  have hbyte : (enc F w)[r * (w / 8) + c / 8]? = some (packByte F r (c / 8)) :=
    enc_getElem? F w r (c / 8) hr (by omega)
  rw [dec_of_getElem? hbyte, packByte_getLsbD F r (c / 8) (c % 8) (Nat.mod_lt c (by decide)), Nat.div_add_mod]

/-- R75, R78: packing a group of a decoded list gives its byte back. -/
theorem packByte_dec {B : List Byte} {w r g : Nat} {b : Byte} (h : B[r * (w / 8) + g]? = some b) :
    packByte (dec B w) r g = b := by
  refine packByte_eq_of_bits _ _ _ _ fun i hi => ?_
  have hgroup : (8 * g + i) / 8 = g := by omega
  have hbit : (8 * g + i) % 8 = i := by omega
  rw [dec_of_getElem? (b := b) (by rwa [hgroup]), hbit]

/-- R78: encoding the decoded bytes gives the bytes back; byte `j` is group `j % (w/8)` of row `j / (w/8)`. -/
theorem enc_dec {B : List Byte} {w : Nat} (hB : B.length = 6 * (w / 8)) : enc (dec B w) w = B := by
  apply List.ext_getElem?
  intro j
  rcases Nat.lt_or_ge j (6 * (w / 8)) with hj | hj
  · have hpos : 0 < w / 8 := by omega
    have hrow : j / (w / 8) < 6 := Nat.div_lt_of_lt_mul (by rwa [Nat.mul_comm])
    have hplace : j / (w / 8) * (w / 8) + j % (w / 8) = j := Nat.div_add_mod' j (w / 8)
    have henc := enc_getElem? (dec B w) w _ _ hrow (Nat.mod_lt j hpos)
    have hbyte : B[j]? = some B[j] := List.getElem?_eq_getElem (by rwa [hB])
    rw [packByte_dec (b := B[j]) (by rwa [hplace]), hplace] at henc
    rw [henc, hbyte]
  · rw [List.getElem?_eq_none (by rwa [enc_length]), List.getElem?_eq_none (by rwa [hB])]

/-- Settles O16: `dec_of_getElem?`, `dec_enc` and `enc_dec` are its three clauses. -/
theorem packingRoundTrip : Obligations.PackingRoundTrip := by
  unfold Obligations.PackingRoundTrip
  exact ⟨fun _ _ _ _ _ h => dec_of_getElem? h, fun F _ hw _ hr _ hc => dec_enc F hw hr hc,
    fun _ _ hw hB => enc_dec (by omega)⟩

/-- Settles O17: the FRAME is the encoding of FB, which decodes to it (`dec_enc`). -/
theorem encodeIsAccepted : Obligations.EncodeIsAccepted := by
  unfold Obligations.EncodeIsAccepted
  intro s hne hmul hmax
  have hgood : ¬ encodeGeometryBad s = true := by rw [encodeGeometryBad_iff]; omega
  exact ⟨enc (fbBit s) (opWidth s), enc_length_of_dvd _ hmul, fun _ hr _ hc => dec_enc _ hmul hr hc,
    exec_encode_of_good hgood⟩

/-- R80: the geometry check of ENCODE in the order of R80's list. -/
theorem encodeGeometryBad_iff_listed (s : State) : encodeGeometryBad s = true ↔
    s.width.toNat % 8 ≠ 0 ∨ s.width.toNat = 0 ∨ s.params.fbMaxCols < s.width.toNat := by
  rw [encodeGeometryBad_iff]; exact or_left_comm

/-- Settles O18: an error entry of a bad width, with ERR = 0, and an acceptance of any other. -/
theorem encodeGeometryCheck : Obligations.EncodeGeometryCheck := by
  unfold Obligations.EncodeGeometryCheck
  intro s he
  rw [← encodeGeometryBad_iff_listed]
  constructor
  · intro hbad
    rw [exec_encode_of_bad hbad, errorEntry_of_noError _ _ he, widthInfo_eq]
  · exact fun hgood => ⟨_, exec_encode_of_good hgood, he, rfl, rfl⟩

end Sys2Proof.Machine
end


/-! ### ANIMATE: rows, windows and the geometry check -/

section
namespace Sys2Proof.Machine

open Sys2Proof

/-- R82: a row of an intermediate frame is a row of the old frame or of the new one. -/
theorem inter_row (k : Nat) (A B : Bitmap) (r : Nat) :
    inter k A B r = if r < 5 - k then A (r + k + 1) else B (r - (5 - k)) := by
  funext c
  unfold inter
  split <;> rfl

/-- R82: the sixth intermediate frame is the new frame. -/
theorem inter_five (A B : Bitmap) : inter 5 A B = B := rfl

/-- Settles O19: row by row (`inter_row`), the old frame's rows end where the new one's begin. -/
theorem rowShiftStacksRows : Obligations.RowShiftStacksRows := by
  unfold Obligations.RowShiftStacksRows
  refine fun A B k hk => ⟨?_, fun r _ => by rw [inter_five]⟩
  refine List.ext_getElem (by simp; omega) fun r hr _ => ?_
  have hr6 : r < 6 := by simpa using hr
  rw [List.getElem_append, List.getElem_map, List.getElem_range, inter_row]
  by_cases hold : r < 5 - k
  · have hindex : k + 1 + r = r + k + 1 := by omega
    simp [hold, hindex]
  · simp [hold]

/-- Settles O20: each clause reads the windows bit by bit (`win_eq`). -/
theorem windowSlidesOneColumn : Obligations.WindowSlidesOneColumn := by
  unfold Obligations.WindowSlidesOneColumn
  refine fun s we i r _ => ⟨fun c _ => win_eq s we i r c, fun c _ => ?_, ?_⟩
  · rw [win_eq, win_eq, show i + 1 + c = i + (c + 1) by omega]
  · rw [win_eq]

/-- R90, R95: an ANIMATE whose width fits is accepted. -/
theorem exec_animate_of_fits {s : State} (t h : Bool) (hw : s.width.toNat ≤ s.params.fbMaxCols) :
    exec (.animate t h) s = .next (acceptAnimate t h s) :=
  exec_animate_of_good (by rw [animateGeometryBad_iff]; omega)

/-- Settles O26: an error entry of a width that does not fit, with ERR = 0, and an acceptance of any other. -/
theorem animateGeometryCheck : Obligations.AnimateGeometryCheck := by
  unfold Obligations.AnimateGeometryCheck
  intro s t h he
  constructor
  · intro hbad
    rw [exec_animate_of_bad ((animateGeometryBad_iff s).2 hbad), errorEntry_of_noError _ _ he, widthInfo_eq]
  · exact fun hfits => ⟨_, exec_animate_of_fits t h (by omega), he, rfl, rfl⟩

/-- R93: the columns ANIMATE can show: those of the n windows that stand below We. -/
def coverage (we : Nat) : Nat := if we ≤ 64 then we else windowCount we + 63

/-- R93: every column a window shows is one of the coverage. -/
theorem lt_coverage {we i c : Nat} (hi : i < windowCount we) (hc : c < 64) (hwe : i + c < we) :
    i + c < coverage we := by
  unfold coverage
  split <;> omega

/-- R93: a window depends on the columns of the coverage only. -/
theorem win_congr_of_coverage {s u : State} {we i : Nat}
    (hfb : ∀ r < 6, ∀ c < coverage we, fbBit u r c = fbBit s r c) (hi : i < windowCount we) :
    ∀ r < 6, ∀ c < 64, win u we i r c = win s we i r c := by
  intro r hr c hc
  unfold win
  split
  next hlt => exact hfb r hr _ (lt_coverage hi hc hlt)
  next => rfl

/-- Settles O27: the windows of the two states show the same bits (`win_congr_of_coverage`). -/
theorem animateShowsOnlyTheCoverage : Obligations.AnimateShowsOnlyTheCoverage := by
  unfold Obligations.AnimateShowsOnlyTheCoverage
  rintro s m d t h we n hw rfl rfl hfb
  have hwin {i : Nat} (hi : i < windowCount (effWidth t (opWidth s))) :=
    win_congr_of_coverage (u := { s with fb := m, fbDraw := d }) hfb hi
  refine ⟨_, _, exec_animate_of_fits t h hw, exec_animate_of_fits t h hw, ?_, ?_⟩
  · exact congrArg (· ++ holdItems s h) <| List.flatMap_congr fun i hi =>
      windowItems_congr rfl rfl rfl rfl rfl rfl (hwin (List.mem_range.1 hi))
  · exact frameOf_congr (hwin (Nat.sub_lt (windowCount_pos _) one_pos))

end Sys2Proof.Machine
end

/-! ### ANIMATE: runs of timed frames -/

section
namespace Sys2Proof.Machine

open Sys2Proof

/-- R85, R87: `n` bitmaps in a row, each a FRAME followed by the same delay. The further windows are one such run, and
so are the six intermediate frames. -/
def timedFrames (F : Nat → Bitmap) (d : Item) (n : Nat) : List Item :=
  (List.range n).flatMap fun i => [.frame (enc (F i) COLS), d]

/-- R35: at place `j` of the list stands a 48-byte FRAME of the bitmap `F`, then the item `d`. -/
def Shows (L : List Item) (j : Nat) (F : Bitmap) (d : Item) : Prop :=
  ∃ bs : List Byte, L[j]? = some (.frame bs) ∧ bs.length = 48 ∧ (∀ r < 6, ∀ c < 64, dec bs 64 r c = F r c) ∧
    L[j + 1]? = some d

theorem Shows.congr {L : List Item} {j : Nat} {F G : Bitmap} {d : Item} (h : Shows L j F d)
    (hFG : ∀ r c, F r c = G r c) : Shows L j G d := by
  obtain ⟨bs, hframe, hlen, hbits, hdelay⟩ := h
  exact ⟨bs, hframe, hlen, fun r hr c hc => (hbits r hr c hc).trans (hFG r c), hdelay⟩

theorem getElem?_append_of_some {L : List Item} {j : Nat} {it : Item} (h : L[j]? = some it) (L' : List Item) :
    (L ++ L')[j]? = some it := by
  obtain ⟨hj, -⟩ := List.getElem?_eq_some_iff.1 h
  rw [List.getElem?_append_left hj, h]

theorem Shows.append {L : List Item} {j : Nat} {F : Bitmap} {d : Item} (h : Shows L j F d) (L' : List Item) :
    Shows (L ++ L') j F d := by
  obtain ⟨bs, hframe, hlen, hbits, hdelay⟩ := h
  exact ⟨bs, getElem?_append_of_some hframe L', hlen, hbits, getElem?_append_of_some hdelay L'⟩

theorem Shows.prepend {L : List Item} {j : Nat} {F : Bitmap} {d : Item} (h : Shows L j F d) (L' : List Item) :
    Shows (L' ++ L) (L'.length + j) F d := by
  obtain ⟨bs, hframe, hlen, hbits, hdelay⟩ := h
  refine ⟨bs, ?_, hlen, hbits, ?_⟩
  · rw [List.getElem?_append_right (by omega), Nat.add_sub_cancel_left, hframe]
  · rw [Nat.add_assoc, List.getElem?_append_right (by omega), Nat.add_sub_cancel_left, hdelay]

theorem timedFrames_succ (F : Nat → Bitmap) (d : Item) (n : Nat) :
    timedFrames F d (n + 1) = timedFrames F d n ++ [.frame (enc (F n) COLS), d] := by
  simp [timedFrames, List.range_succ]

@[simp] theorem timedFrames_length (F : Nat → Bitmap) (d : Item) (n : Nat) : (timedFrames F d n).length = 2 * n := by
  rw [timedFrames, length_flatMap_range _ 2 n fun _ _ => rfl, Nat.mul_comm]

/-- The `i`-th frame of a run stands at place 2i, its delay behind it. -/
theorem timedFrames_shows (F : Nat → Bitmap) (d : Item) {n i : Nat} (hi : i < n) :
    Shows (timedFrames F d n) (2 * i) (F i) d := by
  have hplace (g : Nat) (hg : g < 2) : (timedFrames F d n)[2 * i + g]? = [Item.frame (enc (F i) COLS), d][g]? := by
    rw [Nat.mul_comm]
    exact getElem?_flatMap_range _ 2 n (fun _ _ => rfl) i g hi hg
  exact ⟨_, hplace 0 (by decide), enc_cols_length _, fun r hr c hc => dec_enc_cols _ r c hr hc,
    hplace 1 (by decide)⟩

/-- A run has one FRAME per bitmap, when what stands behind each is a delay. -/
@[simp] theorem countP_isFrame_timedFrames (F : Nat → Bitmap) (k : DelayKind) (v : Word) (n : Nat) :
    (timedFrames F (.delay k v) n).countP isFrame = n := by
  induction n with
  | zero => rfl
  | succ n ih => rw [timedFrames_succ, List.countP_append, ih]; rfl

/-- The last FRAME of two lists end to end is the second's if it has one. -/
theorem lastFrameBytes_append (L L' : List Item) :
    lastFrameBytes (L ++ L') = (lastFrameBytes L').or (lastFrameBytes L) := by
  induction L with
  | nil => simp [lastFrameBytes]
  | cons it L ih =>
    cases it with
    | frame bs => cases hL' : lastFrameBytes L' <;> simp [lastFrameBytes, ih, hL']
    | delay k v => exact ih

theorem lastFrameBytes_timedFrames_succ (F : Nat → Bitmap) (k : DelayKind) (v : Word) (n : Nat) :
    lastFrameBytes (timedFrames F (.delay k v) (n + 1)) = some (enc (F n) COLS) := by
  rw [timedFrames_succ, lastFrameBytes_append]; rfl

@[simp] theorem lastFrameBytes_holdItems (s : State) (h : Bool) : lastFrameBytes (holdItems s h) = none := by
  cases h <;> rfl

@[simp] theorem countP_isFrame_holdItems (s : State) (h : Bool) : (holdItems s h).countP isFrame = 0 := by
  cases h <;> rfl

/-- R88: with H the hold item ends the list. -/
theorem getElem?_append_holdItems (s : State) {L : List Item} {h : Bool} {j : Nat} (hj : j = L.length)
    (hh : h = true) : (L ++ holdItems s h)[j]? = some (.delay .hold s.holdDelay) := by
  subst hj hh
  exact List.getElem?_concat_length

end Sys2Proof.Machine
end

/-! ### ANIMATE: the item list as runs of timed frames -/

section
namespace Sys2Proof.Machine

open Sys2Proof

/-- R85: intermediate frame `k` of the transition from LASTBUF to the first window. -/
def curtainFrame (s : State) (we k : Nat) : Bitmap := inter k (opLast s) (win s we 0)

/-- R86: the init-hold item, when its gate is open. -/
def initItems (s : State) (we : Nat) : List Item :=
  if initGateOpen s.params we then [.delay .init s.initDelay] else []

/-- R87: the items of the windows after the first. -/
def furtherItems (s : State) (we n : Nat) : List Item :=
  timedFrames (fun i => win s we (i + 1)) (.delay .cs s.csDelay) (n - 1)

/-- R82: an intermediate frame, bit by bit. -/
theorem curtainFrame_eq (s : State) (we k r c : Nat) : curtainFrame s we k r c =
    if r < 5 - k then frameBit s.lastBuf (r + k + 1) c else (decide (c < we) && fbBit s (r - (5 - k)) c) := by
  rw [curtainFrame, inter_row]
  split
  · rfl
  · rw [win_eq, Nat.zero_add]

/-- R85: with six row-shift delays the intermediate frames are one run. -/
theorem curtainItems_of_six {s : State} (we : Nat) (h6 : s.params.rsDelays = .six) :
    curtainItems s we = timedFrames (curtainFrame s we) (.delay .rs s.rsDelay) 6 ++ initItems s we := by
  simp [curtainItems, timedFrames, curtainFrame, initItems, h6, RsDelays.count, List.range_succ]

/-- U22: with five row-shift delays the sixth intermediate frame has none. -/
theorem curtainItems_of_five {s : State} (we : Nat) (h5 : s.params.rsDelays = .five) :
    curtainItems s we = timedFrames (curtainFrame s we) (.delay .rs s.rsDelay) 5 ++
      [.frame (enc (curtainFrame s we 5) COLS)] ++ initItems s we := by
  simp [curtainItems, timedFrames, curtainFrame, initItems, h5, RsDelays.count, List.range_succ]

@[simp] theorem lastFrameBytes_initItems (s : State) (we : Nat) : lastFrameBytes (initItems s we) = none := by
  unfold initItems
  split <;> rfl

/-- R82, R85: the last FRAME of the curtain is the first window, in every reading. -/
theorem lastFrameBytes_curtainItems (s : State) (we : Nat) :
    lastFrameBytes (curtainItems s we) = some (enc (win s we 0) COLS) := by
  cases hd : s.params.rsDelays with
  | five =>
    rw [curtainItems_of_five we hd, lastFrameBytes_append, lastFrameBytes_append, lastFrameBytes_initItems]
    rfl
  | six =>
    rw [curtainItems_of_six we hd, lastFrameBytes_append, lastFrameBytes_timedFrames_succ, lastFrameBytes_initItems]
    rfl

/-- R86, U23: when the gate of the init-hold item is open. -/
theorem initGateOpen_iff (p : Params) (we : Nat) :
    initGateOpen p we = true ↔ if p.initGate = .width then 64 < we else 1 < windowCount we := by
  cases hg : p.initGate <;> simp [initGateOpen, hg]

theorem initItems_of_open {s : State} {we : Nat} (hg : initGateOpen s.params we = true) :
    initItems s we = [.delay .init s.initDelay] := by rw [initItems, if_pos hg]

@[simp] theorem countP_isFrame_initItems (s : State) (we : Nat) : (initItems s we).countP isFrame = 0 := by
  unfold initItems
  split <;> rfl

section
variable {s : State} {t h : Bool} {we n : Nat} (hwe : effWidth t (opWidth s) = we) (hn : windowCount we = n)
include hwe hn

/-- R84: without `last` the windows are one run. -/
theorem animateItems_without_last (hl : s.lastValid = false) :
    animateItems s t h = timedFrames (win s we) (.delay .cs s.csDelay) n ++ holdItems s h := by
  subst hwe hn
  exact animateItems_of_none s t h hl

/-- R84: with `last` the curtain stands before the run of the further windows. -/
theorem animateItems_with_last (hl : s.lastValid = true) :
    animateItems s t h = curtainItems s we ++ furtherItems s we n ++ holdItems s h := by
  subst hwe hn
  exact animateItems_of_some s t h hl

/-- R92: the length of the list with `last`, in every reading. -/
theorem animateItems_length_with_last (hl : s.lastValid = true) : (animateItems s t h).length =
    2 * n + 4 + s.params.rsDelays.count + (if initGateOpen s.params we = true then 1 else 0) + h.toNat := by
  have hpos : 1 ≤ n := hn ▸ windowCount_pos we
  rw [animateItems_with_last hwe hn hl, List.length_append, List.length_append,
    curtainItems_length, furtherItems, timedFrames_length, holdItems_length]
  omega

/-- R85: with six row-shift delays intermediate frame `k` stands at place 2k, its DELAY(RS) behind it. -/
theorem animateItems_shows_curtainFrame (hl : s.lastValid = true) (h6 : s.params.rsDelays = .six) {k : Nat}
    (hk : k < 6) : Shows (animateItems s t h) (2 * k) (curtainFrame s we k) (.delay .rs s.rsDelay) := by
  rw [animateItems_with_last hwe hn hl, curtainItems_of_six we h6]
  exact (((timedFrames_shows _ _ hk).append _).append _).append _

/-- R86: with six row-shift delays DELAY(INIT) stands at place 12 when its gate is open. -/
theorem animateItems_init_at (hl : s.lastValid = true) (h6 : s.params.rsDelays = .six)
    (hopen : initGateOpen s.params we = true) : (animateItems s t h)[12]? = some (.delay .init s.initDelay) := by
  rw [animateItems_with_last hwe hn hl, curtainItems_of_six we h6, initItems_of_open hopen]
  exact getElem?_append_of_some (getElem?_append_of_some List.getElem?_concat_length _) _

/-- R89: the final window, bit by bit. -/
theorem frameBit_animateLast {r c : Nat} (hr : r < 6) (hc : c < 64) :
    frameBit (animateLast s t) r c = (decide (n - 1 + c < we) && fbBit s r (n - 1 + c)) := by
  subst hwe hn
  rw [animateLast, frameBit_frameOf _ r c hr hc, win_eq]

end

/-- Settles O21: the windows are one run (`animateItems_without_last`), whose `i`-th frame is window `i`. -/
theorem animateWithoutLast : Obligations.AnimateWithoutLast := by
  unfold Obligations.AnimateWithoutLast
  intro s t h we n hw hl hwe hn
  refine ⟨animateItems s t h, animateLast s t, exec_animate_of_fits t h hw, ?_, fun i hi => ?_, fun hh => ?_,
    fun r hr c hc => frameBit_animateLast hwe.symm hn.symm hr hc⟩ <;>
    rw [animateItems_without_last hwe.symm hn.symm hl]
  · simp
  · exact ((timedFrames_shows _ _ hi).append _).congr (win_eq s we i)
  · exact getElem?_append_holdItems s (by simp) hh

/-- R87: a further window stands two places behind the one before it, the first right behind the curtain. -/
theorem furtherItems_shows (s : State) (we : Nat) {n i : Nat} (h1 : 1 ≤ i) (hi : i < n) :
    Shows (furtherItems s we n) (2 * (i - 1)) (win s we i) (.delay .cs s.csDelay) := by
  have h := timedFrames_shows (fun i => win s we (i + 1)) (.delay .cs s.csDelay) (show i - 1 < n - 1 by omega)
  rwa [Nat.sub_add_cancel h1] at h

/-- Settles O22: the six intermediate frames are one run and the further windows another (`animateItems_with_last`). -/
theorem animateWithLast : Obligations.AnimateWithLast := by
  unfold Obligations.AnimateWithLast
  rintro s t h we n g ⟨h6, hgate⟩ hw hl hwe hn hg
  have hopen : initGateOpen s.params we = true ↔ 64 < we := by rw [initGateOpen_iff, if_pos hgate]
  have hlen : (animateItems s t h).length = 2 * n + 10 + g + h.toNat := by
    rw [animateItems_length_with_last hwe.symm hn.symm hl, h6, hg]
    simp only [hopen, RsDelays.count]
  have hlist := animateItems_with_last (h := h) hwe.symm hn.symm hl
  refine ⟨animateItems s t h, animateLast s t, exec_animate_of_fits t h hw, hlen, fun k hk => ?_, fun hwide => ?_,
    fun i h1 hi => ?_, fun hh => ?_, fun r hr c hc => frameBit_animateLast hwe.symm hn.symm hr hc⟩
  · exact (animateItems_shows_curtainFrame hwe.symm hn.symm hl h6 hk).congr (curtainFrame_eq s we k)
  · exact animateItems_init_at hwe.symm hn.symm hl h6 (hopen.2 hwide)
  · have hplace := ((furtherItems_shows s we h1 hi).prepend (curtainItems s we)).append (holdItems s h)
    rw [← hlist, curtainItems_length, h6] at hplace
    simp only [hopen, ← hg] at hplace
    exact hplace.congr (win_eq s we i)
  · rw [hlist]
    refine getElem?_append_holdItems s ?_ hh
    rw [hlist, List.length_append, holdItems_length] at hlen
    omega

/-- Settles O23: the FRAMEs are counted run by run, and the DELAYs are the other items. -/
theorem animateItemCounts : Obligations.AnimateItemCounts := by
  unfold Obligations.AnimateItemCounts
  rintro s t h we n g ⟨-, -, hmax, -⟩ ⟨h6, hgate⟩ hw hwe hn hg
  have hpos : 1 ≤ n := hn ▸ windowCount_pos we
  have hh : h.toNat ≤ 1 := Bool.toNat_le h
  have hle : n ≤ 65464 := by subst hwe hn; split <;> omega
  have hsplit : (animateItems s t h).length =
      (animateItems s t h).countP isFrame + (animateItems s t h).countP fun it => !isFrame it := by
    simpa using List.length_eq_countP_add_countP isFrame (l := animateItems s t h)
  refine ⟨_, exec_animate_of_fits t h hw, ?_⟩
  rw [acceptAnimate_cmdItems]
  cases hl : s.lastValid with
  | false =>
    have hframes : (animateItems s t h).countP isFrame = n := by
      simp [animateItems_without_last hwe.symm hn.symm hl]
    have hlength : (animateItems s t h).length = 2 * n + h.toNat := by
      simp [animateItems_without_last hwe.symm hn.symm hl]
    simp only [Bool.false_eq_true, if_false]
    omega
  | true =>
    have hopen : initGateOpen s.params we = true ↔ 64 < we := by rw [initGateOpen_iff, if_pos hgate]
    have hg1 : g ≤ 1 := by rw [hg]; split <;> omega
    have hframes : (animateItems s t h).countP isFrame = n + 5 := by
      rw [animateItems_with_last hwe.symm hn.symm hl, curtainItems_of_six we h6]
      simp [furtherItems]; omega
    have hlength : (animateItems s t h).length = 2 * n + 10 + g + h.toNat := by
      rw [animateItems_length_with_last hwe.symm hn.symm hl, h6, hg]
      simp only [hopen, hl, true_and, RsDelays.count]
    simp only [if_true]
    omega

/-- R89: the last FRAME of the list is the final window. -/
theorem lastFrameBytes_animateItems (s : State) (t h : Bool) :
    lastFrameBytes (animateItems s t h) = some (animateLast s t).toList := by
  obtain ⟨m, hm⟩ := Nat.exists_eq_add_of_le' (windowCount_pos (effWidth t (opWidth s)))
  rw [animateLast, frameOf_toList, hm, Nat.add_sub_cancel]
  cases hl : s.lastValid with
  | false =>
    rw [animateItems_without_last rfl hm hl, lastFrameBytes_append, lastFrameBytes_holdItems, Option.none_or,
      lastFrameBytes_timedFrames_succ]
  | true =>
    rw [animateItems_with_last rfl hm hl, lastFrameBytes_append, lastFrameBytes_holdItems, Option.none_or,
      lastFrameBytes_append, lastFrameBytes_curtainItems, furtherItems, Nat.add_sub_cancel]
    cases m with
    | zero => rfl
    | succ m => rw [lastFrameBytes_timedFrames_succ, Option.some_or]

/-- Settles O25: `lastFrameBytes_animateItems`. -/
theorem pendingLastIsTheLastFrame : Obligations.PendingLastIsTheLastFrame := by
  unfold Obligations.PendingLastIsTheLastFrame
  exact fun s t h hw => ⟨_, exec_animate_of_fits t h hw, lastFrameBytes_animateItems s t h⟩

end Sys2Proof.Machine
end

/-! ### ANIMATE: the other readings -/

section
namespace Sys2Proof.Machine

open Sys2Proof

/-- U22: the same state under the reading of six row-shift delays. -/
def withSixDelays (s : State) : State := { s with params := { s.params with rsDelays := .six } }

theorem withSixDelays_of_six {s : State} (h6 : s.params.rsDelays = .six) : withSixDelays s = s := by
  rw [withSixDelays, ← h6]

theorem rsDelays_count_eq (d : RsDelays) : d.count = if d = .five then 5 else 6 := by cases d <;> rfl

/-- R86, U23: how many DELAY(INIT) items there are, gate by gate. -/
theorem initCount_eq (p : Params) (we : Nat) : (if initGateOpen p we = true then 1 else 0) =
    if p.initGate = .width then (if 64 < we then 1 else 0) else (if 1 < windowCount we then 1 else 0) := by
  simp only [initGateOpen_iff]
  split <;> rfl

/-- U22: five row-shift delays are six less the one after the sixth frame. -/
theorem curtainItems_of_five_eq_eraseIdx {s : State} (we : Nat) (h5 : s.params.rsDelays = .five) :
    curtainItems s we = (curtainItems (withSixDelays s) we).eraseIdx 11 := by
  rw [curtainItems_of_five we h5, curtainItems_of_six (s := withSixDelays s) we rfl,
    List.eraseIdx_append_of_lt_length (by simp), timedFrames_succ _ _ 5,
    List.eraseIdx_append_of_length_le (by simp), timedFrames_length]
  rfl

/-- U22: what the list of either reading is. -/
theorem animateItems_eq_ite (s : State) (t h : Bool) (hl : s.lastValid = true) : animateItems s t h =
    if s.params.rsDelays = .five then (animateItems (withSixDelays s) t h).eraseIdx 11
    else animateItems (withSixDelays s) t h := by
  cases hd : s.params.rsDelays with
  | five =>
    have hlong (we : Nat) : 11 < (curtainItems (withSixDelays s) we).length := by
      rw [curtainItems_length]
      exact Nat.lt_add_right _ (by decide : 11 < 6 + RsDelays.six.count)
    rw [if_pos rfl, animateItems_with_last (s := withSixDelays s) rfl rfl hl, animateItems_with_last rfl rfl hl,
      curtainItems_of_five_eq_eraseIdx _ hd, List.append_assoc, List.append_assoc,
      List.eraseIdx_append_of_lt_length (hlong _)]
    rfl
  | six => rw [if_neg (by decide), withSixDelays_of_six hd]

theorem init_notMem_timedFrames (F : Nat → Bitmap) {k : DelayKind} (hk : k ≠ .init) (v w : Word) (n : Nat) :
    Item.delay .init w ∉ timedFrames F (.delay k v) n := by
  simp [timedFrames, hk.symm]

theorem init_notMem_holdItems (s : State) (h : Bool) (w : Word) : Item.delay .init w ∉ holdItems s h := by
  cases h <;> simp [holdItems]

theorem init_mem_initItems_iff (s : State) (we : Nat) :
    Item.delay .init s.initDelay ∈ initItems s we ↔ initGateOpen s.params we = true := by
  unfold initItems
  split <;> simp_all

/-- R86, U23: the curtain holds DELAY(INIT) exactly when the gate is open, in either reading of U22. -/
theorem init_mem_curtainItems_iff (s : State) (we : Nat) :
    Item.delay .init s.initDelay ∈ curtainItems s we ↔ initGateOpen s.params we = true := by
  cases hd : s.params.rsDelays with
  | five => simp [curtainItems_of_five we hd, init_notMem_timedFrames, init_mem_initItems_iff]
  | six => simp [curtainItems_of_six we hd, init_notMem_timedFrames, init_mem_initItems_iff]

/-- R86, U23: the list with `last` holds DELAY(INIT) exactly when the gate is open. -/
theorem init_mem_animateItems_iff {s : State} {t h : Bool} (hl : s.lastValid = true) :
    Item.delay .init s.initDelay ∈ animateItems s t h ↔
      initGateOpen s.params (effWidth t (opWidth s)) = true := by
  simp [animateItems_with_last rfl rfl hl, furtherItems, init_notMem_timedFrames, init_notMem_holdItems,
    init_mem_curtainItems_iff]

/-- Settles O24: the readings differ in the last DELAY(RS) (`animateItems_eq_ite`) and in the gate
(`initGateOpen_iff`). -/
theorem animateOtherReadings : Obligations.AnimateOtherReadings := by
  unfold Obligations.AnimateOtherReadings
  intro s t h we n hw hl hwe hn
  subst hn
  obtain ⟨bs, hframe, -, -, hdelay⟩ := animateItems_shows_curtainFrame (s := withSixDelays s) (t := t) (h := h)
    hwe.symm rfl hl rfl (show 5 < 6 by decide)
  refine ⟨_, _, exec_animate_of_fits t h hw, exec_animate_of_fits t h hw, ?_, ⟨bs, hframe⟩, hdelay, ?_,
    fun hgate => ?_, ?_⟩
  · rw [← rsDelays_count_eq]
    exact (animateItems_length_with_last hwe.symm rfl hl).trans (by rw [initCount_eq]; rfl)
  · exact animateItems_eq_ite s t h hl
  · exact animateItems_init_at (s := withSixDelays s) hwe.symm rfl hl rfl ((initGateOpen_iff _ we).2 hgate)
  · rw [hwe]
    exact (init_mem_animateItems_iff hl).trans (initGateOpen_iff _ _)

end Sys2Proof.Machine
end

/-! ### The control commands, NOP and the `last` a host passes in -/

section
namespace Sys2Proof.Machine

open Sys2Proof

/-! What each control command makes of the state (R96 to R99). -/

theorem exec_nop (s : State) : exec .nop s = .next s := rfl
theorem exec_lastClear (s : State) : exec .lastClear s = .next { s with lastValid := false } := rfl
theorem exec_lastSet (s : State) : exec .lastSet s = .next { s with lastValid := true } := rfl
theorem exec_lastBlank (s : State) :
    exec .lastBlank s = .next { s with lastBuf := blankFrame, lastValid := true } := rfl

/-- R96 to R99: a control command writes LAST_VALID and LASTBUF and nothing else. -/
theorem exec_of_control {i : Instr} (hi : i = .nop ∨ i = .lastClear ∨ i = .lastSet ∨ i = .lastBlank) (s : State) :
    exec i s = .next { s with
      lastValid := if i = .nop then s.lastValid else decide (i ≠ .lastClear)
      lastBuf := if i = .lastBlank then blankFrame else s.lastBuf } := by
  rcases hi with rfl | rfl | rfl | rfl
  · exact exec_nop s
  · exact exec_lastClear s
  · exact exec_lastSet s
  · exact exec_lastBlank s

/-- Settles O14: the host step issues the command's word (`step_of_issues`), whose effect is `exec_of_control`. -/
theorem controlCommandsAreAtomic : Obligations.ControlCommandsAreAtomic := by
  unfold Obligations.ControlCommandsAreAtomic
  intro s rest i hi hn hp hb he
  refine ⟨_, (step_of_issues ⟨hn, hp, hb, he⟩ (decode_encode i)).trans (exec_of_control hi _), ?_, fun j _ => ?_, ?_⟩
  · simp
  · by_cases hblank : i = .lastBlank
    · simp [hblank]
    · simp [hblank]
  · simp [afterHost, hb, he, fbByte]

/-- R69, R108: a CMD write on an idle block with ERR = 1 is discarded. -/
theorem memWrite_cmd_of_err {s : State} {w : Word} (hb : s.busy = false) (he : s.err = true) :
    memWrite 0x008 4 w s = .next s := by
  simp [memWrite_cmd, issue, hb, he]

/-- R55: a CMD write while BUSY = 1 sets BWE. -/
theorem memWrite_cmd_of_busy {s : State} {w : Word} (hb : s.busy = true) :
    memWrite 0x008 4 w s = .next { s with bwe := true } :=
  memWrite_refused ((busTarget_reg_iff _ _ _ .cmd).2 ⟨rfl, rfl⟩) hb rfl

/-- Settles O10: with BUSY = 0 the write is discarded or runs NOP. -/
theorem nopChangesNothing : Obligations.NopChangesNothing := by
  unfold Obligations.NopChangesNothing
  refine ⟨rfl, fun s => ⟨exec_nop s, fun hb => ?_, memWrite_cmd_of_busy⟩⟩
  cases he : s.err with
  | false => exact (memWrite_cmd_of_ok hb he (decode_encode .nop)).trans (exec_nop s)
  | true => exact memWrite_cmd_of_err hb he

/-- Settles O12: LAST_SET after LAST_CLEAR writes back the 1 that was there. -/
theorem lastSetMarksTheBuffer : Obligations.LastSetMarksTheBuffer := by
  unfold Obligations.LastSetMarksTheBuffer
  refine ⟨rfl, exec_lastSet, fun s hl => ⟨_, exec_lastClear s, ?_⟩, rfl⟩
  rw [exec_lastSet, ← hl]

/-- R8, R95: a width of 64 fits every legal frame buffer. -/
theorem width64_fits {p : Params} (hp : p.legal) : (64 : Half).toNat ≤ p.fbMaxCols := by
  obtain ⟨-, h64, -, -⟩ := hp
  exact h64

/-- Settles O11: without `last` the one window of width 64 gives a FRAME and its delay. -/
theorem lastClearMakesLastNone : Obligations.LastClearMakesLastNone := by
  unfold Obligations.LastClearMakesLastNone
  refine ⟨rfl, fun s hp => ⟨_, exec_lastClear s, rfl, fun off n hacc => ?_, _,
    exec_animate_of_fits _ _ (width64_fits hp), ?_⟩⟩
  · rw [memRead_last hacc, memRead_last hacc]
  · rw [acceptAnimate_cmdItems, animateItems_without_last (we := 64) (n := 1) rfl rfl rfl, List.length_append,
      timedFrames_length, holdItems_length]
    rfl

/-- R99: the LAST window reads 0 where LASTBUF is blank. -/
theorem memRead_last_of_blank {s : State} (hbuf : s.lastBuf = blankFrame) {off n : Nat} (hacc : lastAccess off n) :
    memRead s off n = some 0 := by
  simp [memRead_last hacc, hbuf, joinBytes]

/-- R85: with `last`, intermediate frame `k` stands at place 2k in either reading of U22: the delay they differ in
stands behind all six. -/
theorem animateItems_curtainFrame_at {s : State} {t : Bool} {we : Nat} (hwe : effWidth t (opWidth s) = we) (h : Bool)
    (hl : s.lastValid = true) {k : Nat} (hk : k < 6) :
    ∃ bs : List Byte, (animateItems s t h)[2 * k]? = some (.frame bs) ∧
      ∀ r < 6, ∀ c < 64, dec bs 64 r c = curtainFrame s we k r c := by
  obtain ⟨bs, hframe, -, hbits, -⟩ :=
    animateItems_shows_curtainFrame (s := withSixDelays s) (h := h) hwe rfl hl rfl hk
  refine ⟨bs, ?_, hbits⟩
  rw [animateItems_eq_ite s t h hl]
  split
  · rw [List.getElem?_eraseIdx_of_lt (by omega), hframe]
  · exact hframe

/-- R82, R99: from a blank LASTBUF to an all-lit first window, intermediate frame `k` is lit in its last k + 1 rows. -/
theorem curtainFrame_of_blank_of_lit {s : State} {we : Nat} (hbuf : s.lastBuf = blankFrame)
    (hlit : ∀ r < 6, ∀ c < we, fbBit s r c = true) {k r c : Nat} (hr : r < 6) (hc : c < we) :
    curtainFrame s we k r c = decide (5 - k ≤ r) := by
  rw [curtainFrame_eq, hbuf]
  split
  case isTrue hold => rw [frameBit_blankFrame, decide_eq_false (by omega)]
  case isFalse hnew => rw [hlit _ (by omega) c hc, decide_eq_true hc, decide_eq_true (by omega), Bool.and_self]

/-- R99: an ANIMATE of an all-lit 64-column frame over a blank LASTBUF. -/
theorem exec_animate_of_blank_of_lit {s : State} (hp : s.params.legal) (hw : s.width = 64) (hl : s.lastValid = true)
    (hbuf : s.lastBuf = blankFrame) (hlit : ∀ r < 6, ∀ c < 64, fbBit s r c = true) :
    ∃ u, exec (.animate false false) s = .next u ∧
      ∀ k < 6, ∃ bs : List Byte, u.cmdItems[2 * k]? = some (.frame bs) ∧
        ∀ r < 6, ∀ c < 64, dec bs 64 r c = decide (5 - k ≤ r) := by
  refine ⟨_, exec_animate_of_fits _ _ (hw ▸ width64_fits hp), fun k hk => ?_⟩
  have hwe : effWidth false (opWidth s) = 64 := by rw [opWidth, hw]; rfl
  obtain ⟨bs, hframe, hbits⟩ := animateItems_curtainFrame_at hwe false hl hk
  exact ⟨bs, hframe, fun r hr c hc => (hbits r hr c hc).trans (curtainFrame_of_blank_of_lit hbuf hlit hr hc)⟩

/-- Settles O13: LASTBUF becomes the blank frame, from which the curtain of the ANIMATE starts. -/
theorem lastBlankMakesLastUnlit : Obligations.LastBlankMakesLastUnlit := by
  unfold Obligations.LastBlankMakesLastUnlit
  refine ⟨rfl, fun s => ⟨_, exec_lastBlank s, rfl, fun r _ c _ => frameBit_blankFrame r c, fun j hj => ?_, rfl,
    fun hp hlit => exec_animate_of_blank_of_lit hp rfl rfl rfl hlit⟩⟩
  exact memRead_last_of_blank rfl ⟨by omega, by omega, .inl rfl, Nat.mod_one _⟩

end Sys2Proof.Machine
end

/-! ### Errors: priority, recovery, the first error and the sink's failure -/

section
namespace Sys2Proof.Machine

open Sys2Proof

/-- R65, R67: the four words of R108's geometry clause that name an ANIMATE. -/
theorem exists_animate_of_word {w : Word} (h : w = 0x002#32 ∨ w = 0x102#32 ∨ w = 0x202#32 ∨ w = 0x302#32) :
    ∃ t b, w = encode (.animate t b) := by
  rcases h with rfl | rfl | rfl | rfl
  · exact ⟨false, false, rfl⟩
  · exact ⟨true, false, rfl⟩
  · exact ⟨false, true, rfl⟩
  · exact ⟨true, true, rfl⟩

/-- R69: on an idle block with no error, the CMD write of a command's word is the command. -/
theorem memWrite_cmd_encode {s : State} (hb : s.busy = false) (he : s.err = false) (i : Instr) :
    memWrite 0x008 4 (encode i) s = exec i s :=
  memWrite_cmd_of_ok hb he (decode_encode i)

/-- Settles O8, outcome by outcome of R108's list: a word of no command fails to decode, and a bad geometry is the error
entry that `exec` of ENCODE or ANIMATE makes (`encodeGeometryCheck`, `animateGeometryCheck`). -/
theorem commandPriority : Obligations.CommandPriority := by
  unfold Obligations.CommandPriority
  intro s w
  refine ⟨memWrite_cmd_of_busy, memWrite_cmd_of_err, fun hb he hw => ?_, fun hb he hbad => ?_, ?_⟩
  · exact memWrite_cmd_of_ne_ok hb he fun i hd => hw i (decode_eq_ok_iff.1 hd)
  · rcases hbad with ⟨rfl, hw⟩ | ⟨hword, hw⟩
    · exact (memWrite_cmd_encode hb he .encode).trans ((encodeGeometryCheck s he).1 (or_left_comm.1 hw))
    · obtain ⟨t, b, rfl⟩ := exists_animate_of_word hword
      exact (memWrite_cmd_encode hb he _).trans ((animateGeometryCheck s t b he).1 hw)
  · rintro hb he i rfl
    exact memWrite_cmd_encode hb he i

/-- A bit of a word is clear when dividing it out leaves an even number. -/
theorem not_getLsbD_eq_decide (w : Word) (i : Nat) : (!w.getLsbD i) = decide (w.toNat / 2 ^ i % 2 = 0) := by
  simp [BitVec.getLsbD, Nat.testBit_eq_decide_div_mod_eq, ← decide_not]

/-- R19, R115: a write of STATUS acknowledges, BUSY or not. -/
theorem memWrite_status (w : Word) (s : State) : memWrite 0x00C 4 w s = .next (acknowledge w s) :=
  (memWrite_reg .status w (by decide)).trans (by simp [refusedWhileBusy, storeTarget])

/-- Settles O39: the write is `acknowledge`, after which ERR = 0 lets a word through (`memWrite_cmd_encode`). -/
theorem statusWriteClearsByOnes : Obligations.StatusWriteClearsByOnes := by
  unfold Obligations.StatusWriteClearsByOnes
  intro s w
  have herr : (acknowledge w s).err = (s.err && decide (w.toNat / 2 % 2 = 0)) :=
    congrArg (s.err && ·) (not_getLsbD_eq_decide w 1)
  have hbwe : (acknowledge w s).bwe = (s.bwe && decide (w.toNat / 4 % 2 = 0)) :=
    congrArg (s.bwe && ·) (not_getLsbD_eq_decide w 2)
  refine ⟨acknowledge w s, memWrite_status w s, rfl, herr, hbwe, fun hbit hb i => ?_⟩
  exact memWrite_cmd_encode (s := acknowledge w s) hb (herr.trans (by simp [hbit])) i

/-- R19: a store can clear ERR but not set it. -/
theorem err_of_err_storeTarget {n : Nat} {v : Word} {s : State} {tg : Target}
    (h : (storeTarget n v s tg).err = true) : s.err = true := by
  by_cases hst : tg = .reg .status
  · subst hst
    exact (Bool.and_eq_true_iff.1 h).1
  · rwa [storeTarget_err n v s tg hst] at h

/-- Settles O51, by the effects that write ERR or BUSY: an error entry starts from an idle block, the two acceptances
from ERR = 0, a sink failure and a reset end in an idle block, and the others neither set ERR nor set BUSY. -/
theorem errorImpliesIdle : Obligations.ErrorImpliesIdle := by
  unfold Obligations.ErrorImpliesIdle
  refine ⟨fun _ => rfl, fun s t hidle hstep ht => ?_⟩
  cases effect_of_step hstep with
  | rejected w rest code info h => simpa using h.idle
  | encodeAccepted rest h | animateAccepted a b rest h => simp [h.noError] at ht
  | sinkFailed | reset => simp
  | stored off n v rest tg => simpa using hidle (by simpa using err_of_err_storeTarget ht)
  | enqueued it => simp [hidle (by simpa using ht)]
  | observed | refused | lastCleared | lastSet | lastBlanked | engineStalled | sinkStarved | taken =>
    simpa using hidle (by simpa using ht)

@[simp] theorem afterHost_errInfo (rest : List HostOp) (resp : BusResp) (s : State) :
    (afterHost rest resp s).errInfo = s.errInfo := passTurn_errInfo s

@[simp] theorem storeTarget_errInfo (n : Nat) (v : Word) (s : State) (tg : Target) :
    (storeTarget n v s tg).errInfo = s.errInfo := by unfold storeTarget; split <;> rfl

/-- Settles O53: what writes the two fields is an issued command, which ERR = 1 rules out, and a sink failure, whose
entry keeps the first error. -/
theorem firstErrorWins : Obligations.FirstErrorWins := by
  unfold Obligations.FirstErrorWins
  intro s t he hn hstep
  cases effect_of_step hstep with
  | rejected w rest code info h => cases he.symm.trans h.noError
  | reset h => exact absurd h hn
  | sinkFailed => simp [he]
  | observed | refused | stored | encodeAccepted | animateAccepted | lastCleared | lastSet | lastBlanked
  | engineStalled | enqueued | sinkStarved | taken => simp

/-- R110: with ERR = 1 an error entry changes nothing. -/
theorem errorEntry_of_err {s : State} (code : ErrCode) (info : Word) (he : s.err = true) :
    errorEntry code info s = s := by simp [errorEntry, he]

/-- R113: a sink failure aborts a running command. -/
theorem sinkFailure_of_busy {s : State} (hb : s.busy = true) :
    sinkFailure s = errorEntry .sinkFailure 0 (abort (flushQueue s)) := by simp [sinkFailure, abortIfBusy, hb]

/-- R113: on an idle block a sink failure has nothing to abort. -/
theorem sinkFailure_of_idle {s : State} (hb : s.busy = false) :
    sinkFailure s = errorEntry .sinkFailure 0 (flushQueue s) := by simp [sinkFailure, abortIfBusy, hb]

/-- R43, R113: the sink turn that takes an item and fails. -/
theorem step_of_sink_failing {s : State} {it : Item} {rest : List Item} (hn : nextTurn s = .sink false)
    (hq : s.q = it :: rest) : step s = .next (sinkFailure (takeHead it false rest (passTurn s))) := by
  rw [step_of_sink hn]
  simp [sinkTurn, hq]

/-- Settles O32: BUSY decides whether the failure aborts, ERR whether it records. An abort leaves NL as it was
(log 13). -/
theorem sinkFailureAbortsAndRecords : Obligations.SinkFailureAbortsAndRecords := by
  unfold Obligations.SinkFailureAbortsAndRecords
  intro s it rest hn hq
  rw [step_of_sink_failing hn hq]
  refine ⟨fun hb he => ⟨s.pendingLast, ?_⟩, fun hb he => ⟨s.pendingLast, ?_⟩, fun hb he => ?_, fun hb he => ?_⟩
  · rw [sinkFailure_of_busy (by simpa using hb), errorEntry_of_noError _ _ (by simpa using he)]
    simp [abort, flushQueue, takeHead]
  · rw [sinkFailure_of_busy (by simpa using hb), errorEntry_of_err _ _ (by simpa using he)]
    simp [abort, flushQueue, takeHead]
  · rw [sinkFailure_of_idle (by simpa using hb), errorEntry_of_noError _ _ (by simpa using he)]
    simp [flushQueue, takeHead]
  · rw [sinkFailure_of_idle (by simpa using hb), errorEntry_of_err _ _ (by simpa using he)]
    simp [flushQueue, takeHead]

end Sys2Proof.Machine
end

/-! ### Completion of a command with room, and the reset turn -/

section
namespace Sys2Proof.Machine

open Sys2Proof

/-- R41: the step of an engine turn with an item to enqueue and room for it. -/
theorem step_of_enabled_engine {s : State} {it : Item} (hn : nextTurn s = .engine) (hb : s.busy = true)
    (hi : s.cmdItems[s.pos]? = some it) (hq : s.q.length < s.params.outDepth) :
    step s = .next (completeIfLast (enqueue it (passTurn s))) := by
  rw [step_of_engine hn, engineTurn_of_enabled (by simpa using hb) (by simpa using hi) (by simpa using hq)]

/-- R31: ITEMS counts the item an engine step enqueues, without wrapping. -/
theorem Inv.enqueue_items_toNat {s : State} (h : Inv s) (hb : s.busy = true) (it : Item) :
    (enqueue it s).items.toNat = s.pos + 1 := by
  obtain ⟨hitems, hlen⟩ := h.itemsCount hb
  have hpos := h.runningHasItem hb
  rw [enqueue_items, BitVec.toNat_add, hitems]
  exact Nat.mod_eq_of_lt (show s.pos + 1 < 2 ^ 32 by omega)

/-- R42: `t` is a state in which the command running in `s` has completed, with no item taken from Q since `s`. -/
structure CompletedFrom (s t : State) : Prop where
  idle : t.busy = false
  items : t.items.toNat = s.cmdItems.length
  queue : t.q = s.q ++ s.cmdItems.drop s.pos
  lastBuf : t.lastBuf = if s.ecmd = .ani then s.pendingLast else s.lastBuf
  lastValid : t.lastValid = if s.ecmd = .ani then true else s.lastValid

/-- R42: the engine step that enqueues the last item completes the command. -/
theorem completedFrom_of_last {s : State} {it : Item} (h : Inv s) (hb : s.busy = true)
    (hi : s.cmdItems[s.pos]? = some it) (hlast : s.pos + 1 = s.cmdItems.length) :
    CompletedFrom s (completeIfLast (enqueue it (passTurn s))) where
  idle := by simp [hlast]
  items := by
    have hpass : Inv (passTurn s) := h.of_same
    rw [completeIfLast_items, hpass.enqueue_items_toNat (by simpa using hb), passTurn_pos, hlast]
  queue := by simp [drop_pos_eq_cons hi, hlast]
  lastBuf := by simp [hlast]
  lastValid := by simp [hlast]

/-- R41: an engine step before the last item leaves to the later ones what they complete. -/
theorem CompletedFrom.of_enqueue {s t : State} {it : Item} (hi : s.cmdItems[s.pos]? = some it)
    (hnot : s.pos + 1 ≠ s.cmdItems.length) (h : CompletedFrom (completeIfLast (enqueue it (passTurn s))) t) :
    CompletedFrom s t where
  idle := h.idle
  items := by simpa using h.items
  queue := by simpa [drop_pos_eq_cons hi] using h.queue
  lastBuf := by simpa [hnot] using h.lastBuf
  lastValid := by simpa [hnot] using h.lastValid

/-- R41, R134: with room for its remaining items a running command completes in as many engine turns, by induction on
their number: each step enqueues an item and leaves one fewer, and `Inv` gives an item to every running command. -/
theorem completedFrom_run {n : Nat} {s : State} {rest : List Turn} (h : Inv s) (hb : s.busy = true)
    (hrem : s.cmdItems.length = s.pos + n) (hroom : s.q.length + n ≤ s.params.outDepth)
    (hturns : s.turns = List.replicate n .engine ++ rest) :
    ∃ t, Host.Core.run Sys2Proof.core n s = .next t ∧ CompletedFrom s t := by
  induction n generalizing s with
  | zero => exact absurd (h.runningHasItem hb) (by omega)
  | succ n ih =>
    have hpos := h.runningHasItem hb
    obtain ⟨it, hi⟩ : ∃ it, s.cmdItems[s.pos]? = some it := ⟨_, List.getElem?_eq_getElem hpos⟩
    obtain ⟨hn, hpass⟩ := nextTurn_of_cons hturns
    have hstep := step_of_enabled_engine hn hb hi (by omega)
    have hinv := h.of_effect (effect_of_step hstep)
    have hrun : Host.Core.run Sys2Proof.core (n + 1) s =
        Host.Core.run Sys2Proof.core n (completeIfLast (enqueue it (passTurn s))) := by
      simp only [Host.Core.run, show Sys2Proof.core.step = step from rfl, hstep]
    rw [hrun]
    by_cases hlast : s.pos + 1 = s.cmdItems.length
    · obtain rfl : n = 0 := by omega
      exact ⟨_, rfl, completedFrom_of_last h hb hi hlast⟩
    · have hbusy : (completeIfLast (enqueue it (passTurn s))).busy = true := by simp [hlast, hb]
      obtain ⟨t, ht, hdone⟩ := ih hinv hbusy (by simp; omega) (by simp; omega) (by simpa using hpass)
      exact ⟨t, ht, hdone.of_enqueue hi hlast⟩

/-- Settles O34: `completedFrom_run`, read for ANIMATE and for ENCODE. -/
theorem commandCompletesWithRoom : Obligations.CommandCompletesWithRoom := by
  unfold Obligations.CommandCompletesWithRoom
  intro s rest h hb hroom hturns
  have hpos := h.runningHasItem hb
  obtain ⟨t, hrun, hdone⟩ := completedFrom_run h hb (by omega) (by omega) hturns
  refine ⟨t, hrun, hdone.idle, hdone.items, hdone.queue, fun hani => ?_, fun henc => ?_⟩
  · exact ⟨by simpa [hani] using hdone.lastBuf, by simpa [hani] using hdone.lastValid⟩
  · exact ⟨by simpa [henc] using hdone.lastBuf, by simpa [henc] using hdone.lastValid⟩

theorem step_of_reset {s : State} (hn : nextTurn s = .reset) : step s = .next (resetTurn (passTurn s)) := by
  simp [step, hn]

/-- R124: after a reset turn every register but PARAM, which the parameters fix, reads as after reset. -/
theorem regRead_resetTurn (s : State) {r : Reg} (hr : r ≠ .param) :
    regRead (resetTurn s) r = regRead State.reset r := by
  cases r with
  | param => exact absurd rfl hr
  | id | cmd | status | width | errinfo | rsDelay | csDelay | initDelay | holdDelay | items => rfl

/-- R126: after a reset turn no byte of FB is known. -/
theorem fbByte_resetTurn (s : State) (off : Nat) : fbByte (resetTurn s) off = Config.fbUnknown (s.fbDraw + 1) off := rfl

/-- Settles O2: the step is `resetTurn`, whose fields are those of `State.reset` but for the ones it keeps. -/
theorem resetTurnRestoresTheBlock : Obligations.ResetTurnRestoresTheBlock := by
  unfold Obligations.ResetTurnRestoresTheBlock
  intro s hn
  have hparam : regRead (resetTurn (passTurn s)) .param = paramWord s.params := by simp [regRead]
  exact ⟨resetTurn (passTurn s), step_of_reset hn, fun r hr => regRead_resetTurn _ hr, hparam, rfl, rfl, rfl, rfl, rfl,
    fun r _ c _ => ⟨frameBit_blankFrame r c, frameBit_blankFrame r c⟩, fbByte_resetTurn _, by simp, rfl, rfl, rfl, rfl,
    by simp, by simp, by simp⟩

end Sys2Proof.Machine
end
